-- ==== Sys2Proof/Word.lean ====
section
/-! DEFINITION. The word types of the ARM7TDMI (R6, 00_scope.md; R61, 20_memory.md). -/

namespace Sys2Proof

/-- A 32-bit word: a register value, an address, an ARM instruction (R6). -/
abbrev Word := BitVec 32

/-- A 16-bit halfword: a datum, a THUMB instruction (R6). -/
abbrev Half := BitVec 16

/-- An 8-bit byte, the unit of memory (R60). -/
abbrev Byte := BitVec 8

end Sys2Proof
end

