-- ==== Sys2Proof/Config.lean ====
section
/-! DEFINITION. What the spec leaves open as a VALUE: free values, constants without a body, so that nothing can be
proved about the value they have. Each is indexed by the state's counter of values drawn so far (`State.draws`). -/

namespace Sys2Proof.Config

/-- The value MUL leaves in C: the spec makes it a draw (R174, 41_thumb_alu.md; D14). Log 11. -/
opaque mulCarry : Nat → Bool

/-- What a reset during a run leaves in R14_svc: "not defined" (R360, 70_reset_and_hazards.md; U7). Log 12. -/
opaque resetLink : Nat → Word

/-- What a reset during a run leaves in SPSR_svc: "not defined" (R360, 70_reset_and_hazards.md; U7). Log 12. -/
opaque resetSaved : Nat → Word

/-- What a device answers to a load: no source gives a device (R333, 60_exceptions.md; D22). Log 32. -/
opaque deviceData : Nat → Word

/-- What a register holds that an instruction abandoned by a reset was about to write, by the register's place: "any value"
(R361, 70_reset_and_hazards.md; U18). Log 37. -/
opaque abandonedReg : Nat → Nat → Word

/-- The bits of the CPSR that an instruction abandoned by a reset was about to change (R361, U18). Log 37. -/
opaque abandonedCpsr : Nat → Word

/-- What an SPSR holds that an instruction abandoned by a reset was about to write, by the SPSR's number (R361, U18).
Log 37. -/
opaque abandonedSpsr : Nat → Nat → Word

/-- What a byte of memory holds that an instruction abandoned by a reset was about to write, by its address (R361, U18).
Log 37. -/
opaque abandonedByte : Nat → Nat → Byte

end Sys2Proof.Config
end

