-- ==== Sys2Proof/Syntax.lean ====
section
/-! DEFINITION. The instructions: one constructor per row of spec/opcode_table.json, in the table's order.
A THUMB constructor's fields are the named fields of 30_encoding.md (R101 to R119), an ARM constructor's those of
47_arm_state.md (R283 to R289). `rd`, `rs`, `rn`, `rb`, `ro` of a THUMB row are 3-bit Lo register numbers, `hd` and `hs`
the low three bits of a Hi register's number (R105). `x` holds the bits of a row that gives them no name. -/

namespace Sys2Proof

inductive Instr where
  /-- `LSL Rd, Rs, #Offset5` (R142). -/
  | lslImm (rd rs : BitVec 3) (off : BitVec 5)
  /-- `LSR Rd, Rs, #Offset5` (R143). -/
  | lsrImm (rd rs : BitVec 3) (off : BitVec 5)
  /-- `ASR Rd, Rs, #Offset5` (R144). -/
  | asrImm (rd rs : BitVec 3) (off : BitVec 5)
  /-- `ADD Rd, Rs, Rn` (R146). -/
  | addReg (rd rs rn : BitVec 3)
  /-- `ADD Rd, Rs, #Offset3` (R147). -/
  | addImm3 (rd rs imm : BitVec 3)
  /-- `SUB Rd, Rs, Rn` (R148). -/
  | subReg (rd rs rn : BitVec 3)
  /-- `SUB Rd, Rs, #Offset3` (R149). -/
  | subImm3 (rd rs imm : BitVec 3)
  /-- `MOV Rd, #Offset8` (R150). -/
  | movImm8 (rd : BitVec 3) (imm : BitVec 8)
  /-- `CMP Rd, #Offset8` (R151). -/
  | cmpImm8 (rd : BitVec 3) (imm : BitVec 8)
  /-- `ADD Rd, #Offset8` (R152). -/
  | addImm8 (rd : BitVec 3) (imm : BitVec 8)
  /-- `SUB Rd, #Offset8` (R153). -/
  | subImm8 (rd : BitVec 3) (imm : BitVec 8)
  /-- `AND Rd, Rs` of format 4 (R161). -/
  | andReg (rd rs : BitVec 3)
  /-- `EOR Rd, Rs` of format 4 (R162). -/
  | eorReg (rd rs : BitVec 3)
  /-- `LSL Rd, Rs` of format 4 (R163). -/
  | lslReg (rd rs : BitVec 3)
  /-- `LSR Rd, Rs` of format 4 (R164). -/
  | lsrReg (rd rs : BitVec 3)
  /-- `ASR Rd, Rs` of format 4 (R165). -/
  | asrReg (rd rs : BitVec 3)
  /-- `ADC Rd, Rs` of format 4 (R166). -/
  | adcReg (rd rs : BitVec 3)
  /-- `SBC Rd, Rs` of format 4 (R167). -/
  | sbcReg (rd rs : BitVec 3)
  /-- `ROR Rd, Rs` of format 4 (R168). -/
  | rorReg (rd rs : BitVec 3)
  /-- `TST Rd, Rs` of format 4 (R169). -/
  | tstReg (rd rs : BitVec 3)
  /-- `NEG Rd, Rs` of format 4 (R170). -/
  | negReg (rd rs : BitVec 3)
  /-- `CMP Rd, Rs` of format 4 (R171). -/
  | cmpReg (rd rs : BitVec 3)
  /-- `CMN Rd, Rs` of format 4 (R172). -/
  | cmnReg (rd rs : BitVec 3)
  /-- `ORR Rd, Rs` of format 4 (R173). -/
  | orrReg (rd rs : BitVec 3)
  /-- `MUL Rd, Rs` of format 4 (R174). -/
  | mulReg (rd rs : BitVec 3)
  /-- `BIC Rd, Rs` of format 4 (R175). -/
  | bicReg (rd rs : BitVec 3)
  /-- `MVN Rd, Rs` of format 4 (R176). -/
  | mvnReg (rd rs : BitVec 3)
  /-- `ADD Rd, Hs` (R191). -/
  | addRdHs (rd hs : BitVec 3)
  /-- `ADD Hd, Rs` (R191). -/
  | addHdRs (hd rs : BitVec 3)
  /-- `ADD Hd, Hs` (R191). -/
  | addHdHs (hd hs : BitVec 3)
  /-- `CMP Rd, Hs` (R192). -/
  | cmpRdHs (rd hs : BitVec 3)
  /-- `CMP Hd, Rs` (R192). -/
  | cmpHdRs (hd rs : BitVec 3)
  /-- `CMP Hd, Hs` (R192). -/
  | cmpHdHs (hd hs : BitVec 3)
  /-- `MOV Rd, Hs` (R193). -/
  | movRdHs (rd hs : BitVec 3)
  /-- `MOV Hd, Rs` (R193). -/
  | movHdRs (hd rs : BitVec 3)
  /-- `MOV Hd, Hs` (R193). -/
  | movHdHs (hd hs : BitVec 3)
  /-- `BX Rs`, a Lo register (R194). -/
  | bxRs (rs : BitVec 3)
  /-- `BX Hs`, a Hi register (R194). -/
  | bxHs (hs : BitVec 3)
  /-- `LDR Rd, [PC, #Imm]` (R201). -/
  | ldrPc (rd : BitVec 3) (imm : BitVec 8)
  /-- `STR Rd, [Rb, Ro]` (R202). -/
  | strReg (rd rb ro : BitVec 3)
  /-- `STRB Rd, [Rb, Ro]` (R203). -/
  | strbReg (rd rb ro : BitVec 3)
  /-- `LDR Rd, [Rb, Ro]` (R204). -/
  | ldrReg (rd rb ro : BitVec 3)
  /-- `LDRB Rd, [Rb, Ro]` (R205). -/
  | ldrbReg (rd rb ro : BitVec 3)
  /-- `STRH Rd, [Rb, Ro]` (R206). -/
  | strhReg (rd rb ro : BitVec 3)
  /-- `LDRH Rd, [Rb, Ro]` (R207). -/
  | ldrhReg (rd rb ro : BitVec 3)
  /-- `LDSB Rd, [Rb, Ro]` (R208). -/
  | ldsbReg (rd rb ro : BitVec 3)
  /-- `LDSH Rd, [Rb, Ro]` (R209). -/
  | ldshReg (rd rb ro : BitVec 3)
  /-- `STR Rd, [Rb, #Imm]` (R210). -/
  | strImm (rd rb : BitVec 3) (off : BitVec 5)
  /-- `LDR Rd, [Rb, #Imm]` (R211). -/
  | ldrImm (rd rb : BitVec 3) (off : BitVec 5)
  /-- `STRB Rd, [Rb, #Imm]` (R212). -/
  | strbImm (rd rb : BitVec 3) (off : BitVec 5)
  /-- `LDRB Rd, [Rb, #Imm]` (R213). -/
  | ldrbImm (rd rb : BitVec 3) (off : BitVec 5)
  /-- `STRH Rd, [Rb, #Imm]` (R214). -/
  | strhImm (rd rb : BitVec 3) (off : BitVec 5)
  /-- `LDRH Rd, [Rb, #Imm]` (R215). -/
  | ldrhImm (rd rb : BitVec 3) (off : BitVec 5)
  /-- `STR Rd, [SP, #Imm]` (R216). -/
  | strSp (rd : BitVec 3) (imm : BitVec 8)
  /-- `LDR Rd, [SP, #Imm]` (R217). -/
  | ldrSp (rd : BitVec 3) (imm : BitVec 8)
  /-- `ADD Rd, PC, #Imm` (R231). -/
  | addPc (rd : BitVec 3) (imm : BitVec 8)
  /-- `ADD Rd, SP, #Imm` (R232). -/
  | addSp (rd : BitVec 3) (imm : BitVec 8)
  /-- `ADD SP, #Imm` (R233). -/
  | addSpPos (imm : BitVec 7)
  /-- `ADD SP, #-Imm` (R234). -/
  | addSpNeg (imm : BitVec 7)
  /-- `PUSH` of the listed Lo registers (R245). -/
  | push (rlist : BitVec 8)
  /-- `PUSH` of the listed Lo registers and LR (R245). -/
  | pushLr (rlist : BitVec 8)
  /-- `POP` of the listed Lo registers (R246). -/
  | pop (rlist : BitVec 8)
  /-- `POP` of the listed Lo registers and the PC (R246). -/
  | popPc (rlist : BitVec 8)
  /-- `STMIA Rb!` of the listed registers (R248). -/
  | stmia (rb : BitVec 3) (rlist : BitVec 8)
  /-- `LDMIA Rb!` of the listed registers (R249). -/
  | ldmia (rb : BitVec 3) (rlist : BitVec 8)
  /-- `BEQ label` (R256). -/
  | beq (off : BitVec 8)
  /-- `BNE label` (R257). -/
  | bne (off : BitVec 8)
  /-- `BCS label` (R258). -/
  | bcs (off : BitVec 8)
  /-- `BCC label` (R259). -/
  | bcc (off : BitVec 8)
  /-- `BMI label` (R260). -/
  | bmi (off : BitVec 8)
  /-- `BPL label` (R261). -/
  | bpl (off : BitVec 8)
  /-- `BVS label` (R262). -/
  | bvs (off : BitVec 8)
  /-- `BVC label` (R263). -/
  | bvc (off : BitVec 8)
  /-- `BHI label` (R264). -/
  | bhi (off : BitVec 8)
  /-- `BLS label` (R265). -/
  | bls (off : BitVec 8)
  /-- `BGE label` (R266). -/
  | bge (off : BitVec 8)
  /-- `BLT label` (R267). -/
  | blt (off : BitVec 8)
  /-- `BGT label` (R268). -/
  | bgt (off : BitVec 8)
  /-- `BLE label` (R269). -/
  | ble (off : BitVec 8)
  /-- `SWI Value8` (R270). -/
  | swi (value : BitVec 8)
  /-- `B label` (R272). -/
  | b (off : BitVec 11)
  /-- `BL label`, first halfword (R275). -/
  | blHigh (off : BitVec 11)
  /-- `BL label`, second halfword (R276). -/
  | blLow (off : BitVec 11)
  /-- Format 5 ADD with H1 = H2 = 0: undefined (R122, U1). -/
  | undefAddLoLo (x : BitVec 6)
  /-- Format 5 CMP with H1 = H2 = 0: undefined (R122, U1). -/
  | undefCmpLoLo (x : BitVec 6)
  /-- Format 5 MOV with H1 = H2 = 0: undefined (R122, U1). -/
  | undefMovLoLo (x : BitVec 6)
  /-- BX with H1 = 1: undefined (R122, U2). -/
  | undefBxH1 (x : BitVec 7)
  /-- BX with bits [2:0] = 1: not admitted (R122, D7). -/
  | bxLowBits1 (x : BitVec 4)
  /-- BX with bits [2:0] = 2: not admitted (R122, D7). -/
  | bxLowBits2 (x : BitVec 4)
  /-- BX with bits [2:0] = 3: not admitted (R122, D7). -/
  | bxLowBits3 (x : BitVec 4)
  /-- BX with bits [2:0] = 4: not admitted (R122, D7). -/
  | bxLowBits4 (x : BitVec 4)
  /-- BX with bits [2:0] = 5: not admitted (R122, D7). -/
  | bxLowBits5 (x : BitVec 4)
  /-- BX with bits [2:0] = 6: not admitted (R122, D7). -/
  | bxLowBits6 (x : BitVec 4)
  /-- BX with bits [2:0] = 7: not admitted (R122, D7). -/
  | bxLowBits7 (x : BitVec 4)
  /-- Format 16 with Cond = 1110: undefined (R271, U3). -/
  | undefCond14 (x : BitVec 8)
  /-- Unallocated halfwords 0xB100 to 0xB1FF (R123). -/
  | unallocB1 (x : BitVec 8)
  /-- Unallocated halfwords 0xB200 to 0xB2FF (R123). -/
  | unallocB2 (x : BitVec 8)
  /-- Unallocated halfwords 0xB300 to 0xB3FF (R123). -/
  | unallocB3 (x : BitVec 8)
  /-- Unallocated halfwords 0xB600 to 0xB6FF (R123). -/
  | unallocB6 (x : BitVec 8)
  /-- Unallocated halfwords 0xB700 to 0xB7FF (R123). -/
  | unallocB7 (x : BitVec 8)
  /-- Unallocated halfwords 0xB800 to 0xB8FF (R123). -/
  | unallocB8 (x : BitVec 8)
  /-- Unallocated halfwords 0xB900 to 0xB9FF (R123). -/
  | unallocB9 (x : BitVec 8)
  /-- Unallocated halfwords 0xBA00 to 0xBAFF (R123). -/
  | unallocBA (x : BitVec 8)
  /-- Unallocated halfwords 0xBB00 to 0xBBFF (R123). -/
  | unallocBB (x : BitVec 8)
  /-- Unallocated halfwords 0xBE00 to 0xBEFF (R123). -/
  | unallocBE (x : BitVec 8)
  /-- Unallocated halfwords 0xBF00 to 0xBFFF (R123). -/
  | unallocBF (x : BitVec 8)
  /-- Unallocated halfwords 0xE800 to 0xEFFF (R123). -/
  | unallocE8 (x : BitVec 11)
  /-- ARM `BX Rn` (R283). -/
  | armBx (cond rn : BitVec 4)
  /-- ARM `MOVS PC, R14` (R284). -/
  | armMovsPcLr (cond : BitVec 4)
  /-- ARM `SUBS PC, R14, #4` (R285). -/
  | armSubsPcLr4 (cond : BitVec 4)
  /-- ARM `SUBS PC, R14, #8` (R286). -/
  | armSubsPcLr8 (cond : BitVec 4)
  /-- ARM `MOV PC, R14` (R287). -/
  | armMovPcLr (cond : BitVec 4)
  /-- ARM `B label` (R288). -/
  | armB (cond : BitVec 4) (off : BitVec 24)
  /-- ARM `BL label` (R288). -/
  | armBl (cond : BitVec 4) (off : BitVec 24)
  /-- ARM `SWI value` (R289). -/
  | armSwi (cond : BitVec 4) (comment : BitVec 24)
deriving DecidableEq, Repr

end Sys2Proof
end

