-- ==== Sys2Proof/WellFormed.lean ====
section
/-! DEFINITION. Which instructions are well formed. Every field is as wide as its encoding, so the one check is the ARM
condition field: code 1111 is not admitted (R282, 47_arm_state.md). -/

namespace Sys2Proof

/-- The condition codes an ARM instruction of the subset admits: all but 1111 (R282). -/
def condAdmitted (cond : BitVec 4) : Bool := cond != 0b1111#4

/-- An instruction the encodings of spec/ can hold. -/
def Instr.wf : Instr → Bool
  | .lslImm _ _ _ => true
  | .lsrImm _ _ _ => true
  | .asrImm _ _ _ => true
  | .addReg _ _ _ => true
  | .addImm3 _ _ _ => true
  | .subReg _ _ _ => true
  | .subImm3 _ _ _ => true
  | .movImm8 _ _ => true
  | .cmpImm8 _ _ => true
  | .addImm8 _ _ => true
  | .subImm8 _ _ => true
  | .andReg _ _ => true
  | .eorReg _ _ => true
  | .lslReg _ _ => true
  | .lsrReg _ _ => true
  | .asrReg _ _ => true
  | .adcReg _ _ => true
  | .sbcReg _ _ => true
  | .rorReg _ _ => true
  | .tstReg _ _ => true
  | .negReg _ _ => true
  | .cmpReg _ _ => true
  | .cmnReg _ _ => true
  | .orrReg _ _ => true
  | .mulReg _ _ => true
  | .bicReg _ _ => true
  | .mvnReg _ _ => true
  | .addRdHs _ _ => true
  | .addHdRs _ _ => true
  | .addHdHs _ _ => true
  | .cmpRdHs _ _ => true
  | .cmpHdRs _ _ => true
  | .cmpHdHs _ _ => true
  | .movRdHs _ _ => true
  | .movHdRs _ _ => true
  | .movHdHs _ _ => true
  | .bxRs _ => true
  | .bxHs _ => true
  | .ldrPc _ _ => true
  | .strReg _ _ _ => true
  | .strbReg _ _ _ => true
  | .ldrReg _ _ _ => true
  | .ldrbReg _ _ _ => true
  | .strhReg _ _ _ => true
  | .ldrhReg _ _ _ => true
  | .ldsbReg _ _ _ => true
  | .ldshReg _ _ _ => true
  | .strImm _ _ _ => true
  | .ldrImm _ _ _ => true
  | .strbImm _ _ _ => true
  | .ldrbImm _ _ _ => true
  | .strhImm _ _ _ => true
  | .ldrhImm _ _ _ => true
  | .strSp _ _ => true
  | .ldrSp _ _ => true
  | .addPc _ _ => true
  | .addSp _ _ => true
  | .addSpPos _ => true
  | .addSpNeg _ => true
  | .push _ => true
  | .pushLr _ => true
  | .pop _ => true
  | .popPc _ => true
  | .stmia _ _ => true
  | .ldmia _ _ => true
  | .beq _ => true
  | .bne _ => true
  | .bcs _ => true
  | .bcc _ => true
  | .bmi _ => true
  | .bpl _ => true
  | .bvs _ => true
  | .bvc _ => true
  | .bhi _ => true
  | .bls _ => true
  | .bge _ => true
  | .blt _ => true
  | .bgt _ => true
  | .ble _ => true
  | .swi _ => true
  | .b _ => true
  | .blHigh _ => true
  | .blLow _ => true
  | .undefAddLoLo _ => true
  | .undefCmpLoLo _ => true
  | .undefMovLoLo _ => true
  | .undefBxH1 _ => true
  | .bxLowBits1 _ => true
  | .bxLowBits2 _ => true
  | .bxLowBits3 _ => true
  | .bxLowBits4 _ => true
  | .bxLowBits5 _ => true
  | .bxLowBits6 _ => true
  | .bxLowBits7 _ => true
  | .undefCond14 _ => true
  | .unallocB1 _ => true
  | .unallocB2 _ => true
  | .unallocB3 _ => true
  | .unallocB6 _ => true
  | .unallocB7 _ => true
  | .unallocB8 _ => true
  | .unallocB9 _ => true
  | .unallocBA _ => true
  | .unallocBB _ => true
  | .unallocBE _ => true
  | .unallocBF _ => true
  | .unallocE8 _ => true
  | .armBx cond _ => condAdmitted cond
  | .armMovsPcLr cond => condAdmitted cond
  | .armSubsPcLr4 cond => condAdmitted cond
  | .armSubsPcLr8 cond => condAdmitted cond
  | .armMovPcLr cond => condAdmitted cond
  | .armB cond _ => condAdmitted cond
  | .armBl cond _ => condAdmitted cond
  | .armSwi cond _ => condAdmitted cond

/-- Whether the row is a THUMB row (16 bits) or an ARM row (32 bits) of the table. -/
def Instr.isThumb : Instr → Bool
  | .lslImm _ _ _ => true
  | .lsrImm _ _ _ => true
  | .asrImm _ _ _ => true
  | .addReg _ _ _ => true
  | .addImm3 _ _ _ => true
  | .subReg _ _ _ => true
  | .subImm3 _ _ _ => true
  | .movImm8 _ _ => true
  | .cmpImm8 _ _ => true
  | .addImm8 _ _ => true
  | .subImm8 _ _ => true
  | .andReg _ _ => true
  | .eorReg _ _ => true
  | .lslReg _ _ => true
  | .lsrReg _ _ => true
  | .asrReg _ _ => true
  | .adcReg _ _ => true
  | .sbcReg _ _ => true
  | .rorReg _ _ => true
  | .tstReg _ _ => true
  | .negReg _ _ => true
  | .cmpReg _ _ => true
  | .cmnReg _ _ => true
  | .orrReg _ _ => true
  | .mulReg _ _ => true
  | .bicReg _ _ => true
  | .mvnReg _ _ => true
  | .addRdHs _ _ => true
  | .addHdRs _ _ => true
  | .addHdHs _ _ => true
  | .cmpRdHs _ _ => true
  | .cmpHdRs _ _ => true
  | .cmpHdHs _ _ => true
  | .movRdHs _ _ => true
  | .movHdRs _ _ => true
  | .movHdHs _ _ => true
  | .bxRs _ => true
  | .bxHs _ => true
  | .ldrPc _ _ => true
  | .strReg _ _ _ => true
  | .strbReg _ _ _ => true
  | .ldrReg _ _ _ => true
  | .ldrbReg _ _ _ => true
  | .strhReg _ _ _ => true
  | .ldrhReg _ _ _ => true
  | .ldsbReg _ _ _ => true
  | .ldshReg _ _ _ => true
  | .strImm _ _ _ => true
  | .ldrImm _ _ _ => true
  | .strbImm _ _ _ => true
  | .ldrbImm _ _ _ => true
  | .strhImm _ _ _ => true
  | .ldrhImm _ _ _ => true
  | .strSp _ _ => true
  | .ldrSp _ _ => true
  | .addPc _ _ => true
  | .addSp _ _ => true
  | .addSpPos _ => true
  | .addSpNeg _ => true
  | .push _ => true
  | .pushLr _ => true
  | .pop _ => true
  | .popPc _ => true
  | .stmia _ _ => true
  | .ldmia _ _ => true
  | .beq _ => true
  | .bne _ => true
  | .bcs _ => true
  | .bcc _ => true
  | .bmi _ => true
  | .bpl _ => true
  | .bvs _ => true
  | .bvc _ => true
  | .bhi _ => true
  | .bls _ => true
  | .bge _ => true
  | .blt _ => true
  | .bgt _ => true
  | .ble _ => true
  | .swi _ => true
  | .b _ => true
  | .blHigh _ => true
  | .blLow _ => true
  | .undefAddLoLo _ => true
  | .undefCmpLoLo _ => true
  | .undefMovLoLo _ => true
  | .undefBxH1 _ => true
  | .bxLowBits1 _ => true
  | .bxLowBits2 _ => true
  | .bxLowBits3 _ => true
  | .bxLowBits4 _ => true
  | .bxLowBits5 _ => true
  | .bxLowBits6 _ => true
  | .bxLowBits7 _ => true
  | .undefCond14 _ => true
  | .unallocB1 _ => true
  | .unallocB2 _ => true
  | .unallocB3 _ => true
  | .unallocB6 _ => true
  | .unallocB7 _ => true
  | .unallocB8 _ => true
  | .unallocB9 _ => true
  | .unallocBA _ => true
  | .unallocBB _ => true
  | .unallocBE _ => true
  | .unallocBF _ => true
  | .unallocE8 _ => true
  | .armBx _ _ => false
  | .armMovsPcLr _ => false
  | .armSubsPcLr4 _ => false
  | .armSubsPcLr8 _ => false
  | .armMovPcLr _ => false
  | .armB _ _ => false
  | .armBl _ _ => false
  | .armSwi _ _ => false

end Sys2Proof
end

