-- ==== Sys2Proof/Decode.lean ====
section
/-! DEFINITION. The decoder and the encoder. The THUMB decoder is the decision tree of R121 (30_encoding.md): every
halfword decodes to the one row of the opcode table that matches it. The ARM decoder knows the subset of 47_arm_state.md and
rejects every other word by name (R281, R282). -/

namespace Sys2Proof

/-- The bits of one instruction: a halfword in THUMB state, a word in ARM state (R100). -/
inductive Code where
  | half (w : Half)
  | word (w : Word)
deriving DecidableEq, Repr

/-- Why some bytes are no instruction of the model. -/
inductive DecodeError where
  /-- Fewer bytes than the instruction's length (R124). -/
  | tooFewBytes
  /-- An ARM word whose condition field is 1111 (R282). -/
  | armReservedCondition (w : Word)
  /-- An ARM word outside the subset of rules R283 to R289 (R281, D18). -/
  | armOutsideSubset (w : Word)
deriving DecidableEq, Repr

/-! ### The fields of a THUMB halfword (R101 to R119) -/

/-- Bits [2:0]: Rd of formats 1, 2, 4, 5 and 7 to 10. -/
def fieldLow (w : Half) : BitVec 3 := w.extractLsb' 0 3

/-- Bits [5:3]: Rs, Hs or Rb. -/
def fieldMid (w : Half) : BitVec 3 := w.extractLsb' 3 3

/-- Bits [8:6]: Rn, Offset3 or Ro. -/
def fieldHigh (w : Half) : BitVec 3 := w.extractLsb' 6 3

/-- Bits [10:6]: Offset5. -/
def fieldOff5 (w : Half) : BitVec 5 := w.extractLsb' 6 5

/-- Bits [10:8]: Rd of formats 3, 6, 11, 12, Rb of format 15. -/
def fieldReg8 (w : Half) : BitVec 3 := w.extractLsb' 8 3

/-- Bits [7:0]: an 8-bit immediate or a register list. -/
def fieldImm8 (w : Half) : BitVec 8 := w.extractLsb' 0 8

/-- Bits [10:0]: the offset of formats 18 and 19. -/
def fieldOff11 (w : Half) : BitVec 11 := w.extractLsb' 0 11

/-! ### The THUMB decoder (R121) -/

/-- Format 2 (R102): bits [10:9] are I and Op. -/
def decodeAddSub (w : Half) : Instr :=
  match w.extractLsb' 9 2 with
  | 0b00#2 => .addReg (fieldLow w) (fieldMid w) (fieldHigh w)
  | 0b01#2 => .subReg (fieldLow w) (fieldMid w) (fieldHigh w)
  | 0b10#2 => .addImm3 (fieldLow w) (fieldMid w) (fieldHigh w)
  | _ => .subImm3 (fieldLow w) (fieldMid w) (fieldHigh w)

/-- Format 4 (R104): bits [9:6] are Op. -/
def decodeAlu (w : Half) : Instr :=
  match w.extractLsb' 6 4 with
  | 0b0000#4 => .andReg (fieldLow w) (fieldMid w)
  | 0b0001#4 => .eorReg (fieldLow w) (fieldMid w)
  | 0b0010#4 => .lslReg (fieldLow w) (fieldMid w)
  | 0b0011#4 => .lsrReg (fieldLow w) (fieldMid w)
  | 0b0100#4 => .asrReg (fieldLow w) (fieldMid w)
  | 0b0101#4 => .adcReg (fieldLow w) (fieldMid w)
  | 0b0110#4 => .sbcReg (fieldLow w) (fieldMid w)
  | 0b0111#4 => .rorReg (fieldLow w) (fieldMid w)
  | 0b1000#4 => .tstReg (fieldLow w) (fieldMid w)
  | 0b1001#4 => .negReg (fieldLow w) (fieldMid w)
  | 0b1010#4 => .cmpReg (fieldLow w) (fieldMid w)
  | 0b1011#4 => .cmnReg (fieldLow w) (fieldMid w)
  | 0b1100#4 => .orrReg (fieldLow w) (fieldMid w)
  | 0b1101#4 => .mulReg (fieldLow w) (fieldMid w)
  | 0b1110#4 => .bicReg (fieldLow w) (fieldMid w)
  | _ => .mvnReg (fieldLow w) (fieldMid w)

/-- BX with H1 = 0 (R194): bits [2:0] are 000, or the row of R122 that is not admitted. -/
def decodeBx (w : Half) : Instr :=
  match fieldLow w with
  | 0b000#3 => if w.getLsbD 6 then .bxHs (fieldMid w) else .bxRs (fieldMid w)
  | 0b001#3 => .bxLowBits1 (w.extractLsb' 3 4)
  | 0b010#3 => .bxLowBits2 (w.extractLsb' 3 4)
  | 0b011#3 => .bxLowBits3 (w.extractLsb' 3 4)
  | 0b100#3 => .bxLowBits4 (w.extractLsb' 3 4)
  | 0b101#3 => .bxLowBits5 (w.extractLsb' 3 4)
  | 0b110#3 => .bxLowBits6 (w.extractLsb' 3 4)
  | _ => .bxLowBits7 (w.extractLsb' 3 4)

/-- Format 5 (R105, R122): bits [9:6] are Op, H1 and H2. -/
def decodeHiReg (w : Half) : Instr :=
  match w.extractLsb' 6 4 with
  | 0b0000#4 => .undefAddLoLo (w.extractLsb' 0 6)
  | 0b0001#4 => .addRdHs (fieldLow w) (fieldMid w)
  | 0b0010#4 => .addHdRs (fieldLow w) (fieldMid w)
  | 0b0011#4 => .addHdHs (fieldLow w) (fieldMid w)
  | 0b0100#4 => .undefCmpLoLo (w.extractLsb' 0 6)
  | 0b0101#4 => .cmpRdHs (fieldLow w) (fieldMid w)
  | 0b0110#4 => .cmpHdRs (fieldLow w) (fieldMid w)
  | 0b0111#4 => .cmpHdHs (fieldLow w) (fieldMid w)
  | 0b1000#4 => .undefMovLoLo (w.extractLsb' 0 6)
  | 0b1001#4 => .movRdHs (fieldLow w) (fieldMid w)
  | 0b1010#4 => .movHdRs (fieldLow w) (fieldMid w)
  | 0b1011#4 => .movHdHs (fieldLow w) (fieldMid w)
  | 0b1100#4 => decodeBx w
  | 0b1101#4 => decodeBx w
  | _ => .undefBxH1 (w.extractLsb' 0 7)

/-- Formats 7 and 8 (R107, R108): bits [11:9] tell the eight apart. -/
def decodeRegOffset (w : Half) : Instr :=
  match w.extractLsb' 9 3 with
  | 0b000#3 => .strReg (fieldLow w) (fieldMid w) (fieldHigh w)
  | 0b001#3 => .strhReg (fieldLow w) (fieldMid w) (fieldHigh w)
  | 0b010#3 => .strbReg (fieldLow w) (fieldMid w) (fieldHigh w)
  | 0b011#3 => .ldsbReg (fieldLow w) (fieldMid w) (fieldHigh w)
  | 0b100#3 => .ldrReg (fieldLow w) (fieldMid w) (fieldHigh w)
  | 0b101#3 => .ldrhReg (fieldLow w) (fieldMid w) (fieldHigh w)
  | 0b110#3 => .ldrbReg (fieldLow w) (fieldMid w) (fieldHigh w)
  | _ => .ldshReg (fieldLow w) (fieldMid w) (fieldHigh w)

/-- The prefix 1011 (R113, R114, R123): bits [11:8] tell formats 13, 14 and the unallocated halfwords apart. -/
def decodeMisc (w : Half) : Instr :=
  match w.extractLsb' 8 4 with
  | 0x0#4 => if w.getLsbD 7 then .addSpNeg (w.extractLsb' 0 7) else .addSpPos (w.extractLsb' 0 7)
  | 0x1#4 => .unallocB1 (fieldImm8 w)
  | 0x2#4 => .unallocB2 (fieldImm8 w)
  | 0x3#4 => .unallocB3 (fieldImm8 w)
  | 0x4#4 => .push (fieldImm8 w)
  | 0x5#4 => .pushLr (fieldImm8 w)
  | 0x6#4 => .unallocB6 (fieldImm8 w)
  | 0x7#4 => .unallocB7 (fieldImm8 w)
  | 0x8#4 => .unallocB8 (fieldImm8 w)
  | 0x9#4 => .unallocB9 (fieldImm8 w)
  | 0xA#4 => .unallocBA (fieldImm8 w)
  | 0xB#4 => .unallocBB (fieldImm8 w)
  | 0xC#4 => .pop (fieldImm8 w)
  | 0xD#4 => .popPc (fieldImm8 w)
  | 0xE#4 => .unallocBE (fieldImm8 w)
  | _ => .unallocBF (fieldImm8 w)

/-- The prefix 1101 (R116, R117, R271): bits [11:8] are the condition, 1110 undefined and 1111 SWI. -/
def decodeCond (w : Half) : Instr :=
  match w.extractLsb' 8 4 with
  | 0x0#4 => .beq (fieldImm8 w)
  | 0x1#4 => .bne (fieldImm8 w)
  | 0x2#4 => .bcs (fieldImm8 w)
  | 0x3#4 => .bcc (fieldImm8 w)
  | 0x4#4 => .bmi (fieldImm8 w)
  | 0x5#4 => .bpl (fieldImm8 w)
  | 0x6#4 => .bvs (fieldImm8 w)
  | 0x7#4 => .bvc (fieldImm8 w)
  | 0x8#4 => .bhi (fieldImm8 w)
  | 0x9#4 => .bls (fieldImm8 w)
  | 0xA#4 => .bge (fieldImm8 w)
  | 0xB#4 => .blt (fieldImm8 w)
  | 0xC#4 => .bgt (fieldImm8 w)
  | 0xD#4 => .ble (fieldImm8 w)
  | 0xE#4 => .undefCond14 (fieldImm8 w)
  | _ => .swi (fieldImm8 w)

/-- The THUMB decoder: the tree of R121 on bits [15:11]. -/
def decodeThumb (w : Half) : Instr :=
  match w.extractLsb' 11 5 with
  | 0b00000#5 => .lslImm (fieldLow w) (fieldMid w) (fieldOff5 w)
  | 0b00001#5 => .lsrImm (fieldLow w) (fieldMid w) (fieldOff5 w)
  | 0b00010#5 => .asrImm (fieldLow w) (fieldMid w) (fieldOff5 w)
  | 0b00011#5 => decodeAddSub w
  | 0b00100#5 => .movImm8 (fieldReg8 w) (fieldImm8 w)
  | 0b00101#5 => .cmpImm8 (fieldReg8 w) (fieldImm8 w)
  | 0b00110#5 => .addImm8 (fieldReg8 w) (fieldImm8 w)
  | 0b00111#5 => .subImm8 (fieldReg8 w) (fieldImm8 w)
  | 0b01000#5 => if w.getLsbD 10 then decodeHiReg w else decodeAlu w
  | 0b01001#5 => .ldrPc (fieldReg8 w) (fieldImm8 w)
  | 0b01010#5 => decodeRegOffset w
  | 0b01011#5 => decodeRegOffset w
  | 0b01100#5 => .strImm (fieldLow w) (fieldMid w) (fieldOff5 w)
  | 0b01101#5 => .ldrImm (fieldLow w) (fieldMid w) (fieldOff5 w)
  | 0b01110#5 => .strbImm (fieldLow w) (fieldMid w) (fieldOff5 w)
  | 0b01111#5 => .ldrbImm (fieldLow w) (fieldMid w) (fieldOff5 w)
  | 0b10000#5 => .strhImm (fieldLow w) (fieldMid w) (fieldOff5 w)
  | 0b10001#5 => .ldrhImm (fieldLow w) (fieldMid w) (fieldOff5 w)
  | 0b10010#5 => .strSp (fieldReg8 w) (fieldImm8 w)
  | 0b10011#5 => .ldrSp (fieldReg8 w) (fieldImm8 w)
  | 0b10100#5 => .addPc (fieldReg8 w) (fieldImm8 w)
  | 0b10101#5 => .addSp (fieldReg8 w) (fieldImm8 w)
  | 0b10110#5 => decodeMisc w
  | 0b10111#5 => decodeMisc w
  | 0b11000#5 => .stmia (fieldReg8 w) (fieldImm8 w)
  | 0b11001#5 => .ldmia (fieldReg8 w) (fieldImm8 w)
  | 0b11010#5 => decodeCond w
  | 0b11011#5 => decodeCond w
  | 0b11100#5 => .b (fieldOff11 w)
  | 0b11101#5 => .unallocE8 (fieldOff11 w)
  | 0b11110#5 => .blHigh (fieldOff11 w)
  | _ => .blLow (fieldOff11 w)

/-! ### The ARM decoder (47_arm_state.md) -/

/-- The ARM decoder of the subset: the condition in bits [31:28], 1111 rejected (R282), and every word outside the
subset rejected (R281). -/
def decodeArm (w : Word) : Except DecodeError Instr :=
  let cond := w.extractLsb' 28 4
  if condAdmitted cond then
    if w.extractLsb' 4 24 = 0x12FFF1#24 then .ok (.armBx cond (w.extractLsb' 0 4))
    else if w.extractLsb' 0 28 = 0x1B0F00E#28 then .ok (.armMovsPcLr cond)
    else if w.extractLsb' 0 28 = 0x25EF004#28 then .ok (.armSubsPcLr4 cond)
    else if w.extractLsb' 0 28 = 0x25EF008#28 then .ok (.armSubsPcLr8 cond)
    else if w.extractLsb' 0 28 = 0x1A0F00E#28 then .ok (.armMovPcLr cond)
    else if w.extractLsb' 24 4 = 0xA#4 then .ok (.armB cond (w.extractLsb' 0 24))
    else if w.extractLsb' 24 4 = 0xB#4 then .ok (.armBl cond (w.extractLsb' 0 24))
    else if w.extractLsb' 24 4 = 0xF#4 then .ok (.armSwi cond (w.extractLsb' 0 24))
    else .error (.armOutsideSubset w)
  else .error (.armReservedCondition w)

/-- The instruction of some code, by its state's decoder (R100). -/
def decodeCode : Code → Except DecodeError Instr
  | .half w => .ok (decodeThumb w)
  | .word w => decodeArm w

/-! ### Bytes (R63 to R65) -/

/-- A halfword from the bytes at A and A + 1 (R64): `big` is the BIGEND pin. -/
def halfOfBytes (big : Bool) (b0 b1 : Byte) : Half :=
  if big then b0 ++ b1 else b1 ++ b0

/-- A word from the bytes at A to A + 3 (R63, R64): `big` is the BIGEND pin. -/
def wordOfBytes (big : Bool) (b0 b1 b2 b3 : Byte) : Word :=
  if big then b0 ++ b1 ++ b2 ++ b3 else b3 ++ b2 ++ b1 ++ b0

/-- Byte `k` (0 to 3) of a stored word, counted from its lowest address (R63, R64). -/
def byteOfWord (big : Bool) (w : Word) (k : Nat) : Byte :=
  if big then w.extractLsb' (24 - 8 * k) 8 else w.extractLsb' (8 * k) 8

/-- Byte `k` (0 or 1) of a stored halfword, counted from its lowest address (R64). -/
def byteOfHalf (big : Bool) (h : Half) (k : Nat) : Byte :=
  if big then h.extractLsb' (8 - 8 * k) 8 else h.extractLsb' (8 * k) 8

/-- The bytes of some code as memory holds them, lowest address first (R65). -/
def Code.bytes (big : Bool) : Code → List Byte
  | .half w => [byteOfHalf big w 0, byteOfHalf big w 1]
  | .word w => [byteOfWord big w 0, byteOfWord big w 1, byteOfWord big w 2, byteOfWord big w 3]

/-- The instruction at the head of some bytes: two bytes in THUMB state, four in ARM state (R100, R124). -/
def decodeBytes (thumb big : Bool) : List Byte → Except DecodeError Instr
  | b0 :: b1 :: rest =>
    if thumb then decodeCode (.half (halfOfBytes big b0 b1))
    else match rest with
      | b2 :: b3 :: _ => decodeCode (.word (wordOfBytes big b0 b1 b2 b3))
      | _ => .error .tooFewBytes
  | _ => .error .tooFewBytes

/-! ### The encoder -/

/-- The bits of an instruction, from the encodings of R101 to R119, R122, R123, R271 and R283 to R289. -/
def encode : Instr → Code
  | .lslImm rd rs off => .half (0b00000#5 ++ off ++ rs ++ rd)
  | .lsrImm rd rs off => .half (0b00001#5 ++ off ++ rs ++ rd)
  | .asrImm rd rs off => .half (0b00010#5 ++ off ++ rs ++ rd)
  | .addReg rd rs rn => .half (0b0001100#7 ++ rn ++ rs ++ rd)
  | .addImm3 rd rs imm => .half (0b0001110#7 ++ imm ++ rs ++ rd)
  | .subReg rd rs rn => .half (0b0001101#7 ++ rn ++ rs ++ rd)
  | .subImm3 rd rs imm => .half (0b0001111#7 ++ imm ++ rs ++ rd)
  | .movImm8 rd imm => .half (0b00100#5 ++ rd ++ imm)
  | .cmpImm8 rd imm => .half (0b00101#5 ++ rd ++ imm)
  | .addImm8 rd imm => .half (0b00110#5 ++ rd ++ imm)
  | .subImm8 rd imm => .half (0b00111#5 ++ rd ++ imm)
  | .andReg rd rs => .half (0b0100000000#10 ++ rs ++ rd)
  | .eorReg rd rs => .half (0b0100000001#10 ++ rs ++ rd)
  | .lslReg rd rs => .half (0b0100000010#10 ++ rs ++ rd)
  | .lsrReg rd rs => .half (0b0100000011#10 ++ rs ++ rd)
  | .asrReg rd rs => .half (0b0100000100#10 ++ rs ++ rd)
  | .adcReg rd rs => .half (0b0100000101#10 ++ rs ++ rd)
  | .sbcReg rd rs => .half (0b0100000110#10 ++ rs ++ rd)
  | .rorReg rd rs => .half (0b0100000111#10 ++ rs ++ rd)
  | .tstReg rd rs => .half (0b0100001000#10 ++ rs ++ rd)
  | .negReg rd rs => .half (0b0100001001#10 ++ rs ++ rd)
  | .cmpReg rd rs => .half (0b0100001010#10 ++ rs ++ rd)
  | .cmnReg rd rs => .half (0b0100001011#10 ++ rs ++ rd)
  | .orrReg rd rs => .half (0b0100001100#10 ++ rs ++ rd)
  | .mulReg rd rs => .half (0b0100001101#10 ++ rs ++ rd)
  | .bicReg rd rs => .half (0b0100001110#10 ++ rs ++ rd)
  | .mvnReg rd rs => .half (0b0100001111#10 ++ rs ++ rd)
  | .addRdHs rd hs => .half (0b0100010001#10 ++ hs ++ rd)
  | .addHdRs hd rs => .half (0b0100010010#10 ++ rs ++ hd)
  | .addHdHs hd hs => .half (0b0100010011#10 ++ hs ++ hd)
  | .cmpRdHs rd hs => .half (0b0100010101#10 ++ hs ++ rd)
  | .cmpHdRs hd rs => .half (0b0100010110#10 ++ rs ++ hd)
  | .cmpHdHs hd hs => .half (0b0100010111#10 ++ hs ++ hd)
  | .movRdHs rd hs => .half (0b0100011001#10 ++ hs ++ rd)
  | .movHdRs hd rs => .half (0b0100011010#10 ++ rs ++ hd)
  | .movHdHs hd hs => .half (0b0100011011#10 ++ hs ++ hd)
  | .bxRs rs => .half (0b0100011100#10 ++ rs ++ 0b000#3)
  | .bxHs hs => .half (0b0100011101#10 ++ hs ++ 0b000#3)
  | .ldrPc rd imm => .half (0b01001#5 ++ rd ++ imm)
  | .strReg rd rb ro => .half (0b0101000#7 ++ ro ++ rb ++ rd)
  | .strbReg rd rb ro => .half (0b0101010#7 ++ ro ++ rb ++ rd)
  | .ldrReg rd rb ro => .half (0b0101100#7 ++ ro ++ rb ++ rd)
  | .ldrbReg rd rb ro => .half (0b0101110#7 ++ ro ++ rb ++ rd)
  | .strhReg rd rb ro => .half (0b0101001#7 ++ ro ++ rb ++ rd)
  | .ldrhReg rd rb ro => .half (0b0101101#7 ++ ro ++ rb ++ rd)
  | .ldsbReg rd rb ro => .half (0b0101011#7 ++ ro ++ rb ++ rd)
  | .ldshReg rd rb ro => .half (0b0101111#7 ++ ro ++ rb ++ rd)
  | .strImm rd rb off => .half (0b01100#5 ++ off ++ rb ++ rd)
  | .ldrImm rd rb off => .half (0b01101#5 ++ off ++ rb ++ rd)
  | .strbImm rd rb off => .half (0b01110#5 ++ off ++ rb ++ rd)
  | .ldrbImm rd rb off => .half (0b01111#5 ++ off ++ rb ++ rd)
  | .strhImm rd rb off => .half (0b10000#5 ++ off ++ rb ++ rd)
  | .ldrhImm rd rb off => .half (0b10001#5 ++ off ++ rb ++ rd)
  | .strSp rd imm => .half (0b10010#5 ++ rd ++ imm)
  | .ldrSp rd imm => .half (0b10011#5 ++ rd ++ imm)
  | .addPc rd imm => .half (0b10100#5 ++ rd ++ imm)
  | .addSp rd imm => .half (0b10101#5 ++ rd ++ imm)
  | .addSpPos imm => .half (0b101100000#9 ++ imm)
  | .addSpNeg imm => .half (0b101100001#9 ++ imm)
  | .push rlist => .half (0b10110100#8 ++ rlist)
  | .pushLr rlist => .half (0b10110101#8 ++ rlist)
  | .pop rlist => .half (0b10111100#8 ++ rlist)
  | .popPc rlist => .half (0b10111101#8 ++ rlist)
  | .stmia rb rlist => .half (0b11000#5 ++ rb ++ rlist)
  | .ldmia rb rlist => .half (0b11001#5 ++ rb ++ rlist)
  | .beq off => .half (0b11010000#8 ++ off)
  | .bne off => .half (0b11010001#8 ++ off)
  | .bcs off => .half (0b11010010#8 ++ off)
  | .bcc off => .half (0b11010011#8 ++ off)
  | .bmi off => .half (0b11010100#8 ++ off)
  | .bpl off => .half (0b11010101#8 ++ off)
  | .bvs off => .half (0b11010110#8 ++ off)
  | .bvc off => .half (0b11010111#8 ++ off)
  | .bhi off => .half (0b11011000#8 ++ off)
  | .bls off => .half (0b11011001#8 ++ off)
  | .bge off => .half (0b11011010#8 ++ off)
  | .blt off => .half (0b11011011#8 ++ off)
  | .bgt off => .half (0b11011100#8 ++ off)
  | .ble off => .half (0b11011101#8 ++ off)
  | .swi value => .half (0b11011111#8 ++ value)
  | .b off => .half (0b11100#5 ++ off)
  | .blHigh off => .half (0b11110#5 ++ off)
  | .blLow off => .half (0b11111#5 ++ off)
  | .undefAddLoLo x => .half (0b0100010000#10 ++ x)
  | .undefCmpLoLo x => .half (0b0100010100#10 ++ x)
  | .undefMovLoLo x => .half (0b0100011000#10 ++ x)
  | .undefBxH1 x => .half (0b010001111#9 ++ x)
  | .bxLowBits1 x => .half (0b010001110#9 ++ x ++ 0b001#3)
  | .bxLowBits2 x => .half (0b010001110#9 ++ x ++ 0b010#3)
  | .bxLowBits3 x => .half (0b010001110#9 ++ x ++ 0b011#3)
  | .bxLowBits4 x => .half (0b010001110#9 ++ x ++ 0b100#3)
  | .bxLowBits5 x => .half (0b010001110#9 ++ x ++ 0b101#3)
  | .bxLowBits6 x => .half (0b010001110#9 ++ x ++ 0b110#3)
  | .bxLowBits7 x => .half (0b010001110#9 ++ x ++ 0b111#3)
  | .undefCond14 x => .half (0b11011110#8 ++ x)
  | .unallocB1 x => .half (0b10110001#8 ++ x)
  | .unallocB2 x => .half (0b10110010#8 ++ x)
  | .unallocB3 x => .half (0b10110011#8 ++ x)
  | .unallocB6 x => .half (0b10110110#8 ++ x)
  | .unallocB7 x => .half (0b10110111#8 ++ x)
  | .unallocB8 x => .half (0b10111000#8 ++ x)
  | .unallocB9 x => .half (0b10111001#8 ++ x)
  | .unallocBA x => .half (0b10111010#8 ++ x)
  | .unallocBB x => .half (0b10111011#8 ++ x)
  | .unallocBE x => .half (0b10111110#8 ++ x)
  | .unallocBF x => .half (0b10111111#8 ++ x)
  | .unallocE8 x => .half (0b11101#5 ++ x)
  | .armBx cond rn => .word (cond ++ 0x12FFF1#24 ++ rn)
  | .armMovsPcLr cond => .word (cond ++ 0x1B0F00E#28)
  | .armSubsPcLr4 cond => .word (cond ++ 0x25EF004#28)
  | .armSubsPcLr8 cond => .word (cond ++ 0x25EF008#28)
  | .armMovPcLr cond => .word (cond ++ 0x1A0F00E#28)
  | .armB cond off => .word (cond ++ 0xA#4 ++ off)
  | .armBl cond off => .word (cond ++ 0xB#4 ++ off)
  | .armSwi cond comment => .word (cond ++ 0xF#4 ++ comment)

/-- The code whose bits are `w`, `nbits` of them, as spec/opcode_table.json numbers them: one halfword for a THUMB row, one
word for an ARM row. -/
def codeOfTable (nbits w : Nat) : Code :=
  if nbits ≤ 16 then .half (BitVec.ofNat 16 w) else .word (BitVec.ofNat 32 w)

/-- Whether a row of `nbits` bits is a THUMB row. -/
def tableIsThumb (nbits : Nat) : Bool := nbits ≤ 16

/-- The instruction the decoder reads from an opcode-table word: the word is laid out in bytes (little endian) and given
to `decodeBytes`. -/
def decodeTableWord (nbits w : Nat) : Option Instr :=
  match decodeBytes (tableIsThumb nbits) false ((codeOfTable nbits w).bytes false) with
  | .ok i => some i
  | .error _ => none

end Sys2Proof
end

