-- ==== Sys2Proof/Machine/State.lean ====
section
/-! DEFINITION. The state of the machine as plain data: R20 (10_state.md), and the inputs of R12 (00_scope.md) held as
data. -/

namespace Sys2Proof.Machine

/-! ### Modes and physical registers -/

/-- The seven modes of R21 (10_state.md), R300 (60_exceptions.md). -/
inductive Mode where
  | usr | fiq | irq | svc | abt | und | sys
deriving DecidableEq, Repr

/-- The six copies of R13 and R14 (R22): `usr` is seen in User and System mode. -/
inductive Bank where
  | usr | fiq | irq | svc | abt | und
deriving DecidableEq, Repr

/-- The thirty physical general registers but for the PC (R20, R23). -/
inductive PhysReg where
  /-- R0 to R7, one copy. -/
  | lo (i : Fin 8)
  /-- R8 to R12, the copy of every mode but FIQ: `mid 0` is R8. -/
  | mid (i : Fin 5)
  /-- R8_fiq to R12_fiq. -/
  | midFiq (i : Fin 5)
  /-- R13 of a bank. -/
  | r13 (b : Bank)
  /-- R14 of a bank. -/
  | r14 (b : Bank)
deriving DecidableEq, Repr

/-- A register number as an instruction names it: 0 to 15, with 13 the SP, 14 the LR, 15 the PC (R10, R24). -/
abbrev RegNum := Fin 16

/-! ### Inputs -/

/-- The kind of a bus access (R73, 20_memory.md): nOPC and nRW. -/
inductive AccessKind where
  | fetch | read | write
deriving DecidableEq, Repr

/-- The size of a bus access (R70): a byte, a halfword or a word, never the reserved code. -/
inductive Size where
  | byte | half | word
deriving DecidableEq, Repr

/-- One rule of the ABORT oracle (R76, D23): the accesses that touch a byte of `lo` to `hi`, of the kinds and the
privileges named, are answered with ABORT. -/
structure AbortRule where
  lo : Word
  hi : Word
  onFetch : Bool
  onRead : Bool
  onWrite : Bool
  inUser : Bool
  inPrivileged : Bool
deriving DecidableEq, Repr

/-- What stands at the addresses of a region of the platform's memory map (R75, D22). -/
inductive RegionKind where
  | ram | rom | device
deriving DecidableEq, Repr

/-- One region of the memory map (R75, D22): the addresses `lo` to `hi`, both included. -/
structure Region where
  lo : Word
  hi : Word
  kind : RegionKind
deriving DecidableEq, Repr

/-- A byte that another bus master writes (R80, 20_memory.md; R334, 60_exceptions.md). -/
structure BusWrite where
  addr : Word
  byte : Byte
deriving DecidableEq, Repr

/-- What the other bus masters write in one step of the machine (R80, R334): between the fetch of the instruction and its data
accesses, and after those. Log 31 says why these two places are all of them. -/
structure BusTurn where
  between : List BusWrite
  after : List BusWrite
deriving DecidableEq, Repr

/-- A step in which no other master writes. -/
def BusTurn.idle : BusTurn := { between := [], after := [] }

/-- The input lines at one instruction boundary: a reset (R360), the synchroniser outputs of nFIQ and nIRQ, true for a
request (R315), and the memory system's ABORT answers (R76). -/
structure Lines where
  reset : Bool
  fiq : Bool
  irq : Bool
  aborts : List AbortRule
deriving DecidableEq, Repr

/-- No reset, no interrupt request, no abort. -/
def Lines.quiet : Lines := { reset := false, fiq := false, irq := false, aborts := [] }

/-! ### The state -/

/-- The state of the machine. -/
structure State where
  /-- R0 to R14 of every bank, at `PhysReg.index` (R20). -/
  regs : Vector Word 30
  /-- R15: the address of the instruction to execute next (R28, R10). -/
  pc : Word
  /-- The CPSR, whole (R35). -/
  cpsr : Word
  /-- SPSR_fiq (R44). -/
  spsrFiq : Word
  /-- SPSR_irq (R44). -/
  spsrIrq : Word
  /-- SPSR_svc (R44). -/
  spsrSvc : Word
  /-- SPSR_abt (R44). -/
  spsrAbt : Word
  /-- SPSR_und (R44). -/
  spsrUnd : Word
  /-- Memory: the bytes that hold a value, addresses strictly rising (R60, D11). -/
  mem : List Host.Cell
  /-- The addresses of the bytes the program has stored to, strictly rising (R84, D4): the model's own field. -/
  stored : List Nat
  /-- The input lines at this instruction boundary. -/
  lines : Lines
  /-- The lines at the boundaries after this one, as the host will drive them; where the list ends, the levels hold. -/
  upcoming : List Lines
  /-- What the other bus masters will write, one turn for each step from this one on, as the host will have it; where the list
  ends they write no more (R80, R334). -/
  masters : List BusTurn
  /-- Whether the last step was one of a reset, nRESET being LOW (R361): the model's own field (log 37). -/
  resetting : Bool
  /-- The platform's MemoryMap (R75, D22): which addresses exist, and of which kind they are. -/
  memoryMap : List Region
  /-- The BIGEND pin (R62): true for HIGH. -/
  bigend : Bool
  /-- The platform's THUMB_UNALLOCATED_TRAPS (D5). -/
  unallocTraps : Bool
  /-- How many free values the machine has drawn: the model's own field (log 11). -/
  draws : Nat
deriving DecidableEq, Repr

/-! ### How a step can stop -/

/-- Why the machine stops with a fault. -/
inductive Fault where
  /-- A fetch or a load at this address reads a byte that holds no value (D11, R51). Raised by the fetch, the loads, POP
  and LDMIA. SAFE: the hardware goes on with some value, the model claims nothing. -/
  | unwritten (addr : Word)
deriving DecidableEq, Repr

/-- Why the model gives a step no meaning. -/
inductive Refusal where
  /-- The instruction of the table has no meaning in the model. Raised by no meaning. SAFE. -/
  | notModelled (mnemonic : String)
  /-- An ARM word outside the subset (R281, D18). Raised by the fetch. SAFE. -/
  | armOutsideSubset (w : Word)
  /-- An ARM word whose condition field is 1111 (R282). Raised by the fetch. SAFE. -/
  | armReservedCondition (w : Word)
  /-- Fewer bytes than an instruction's length; raised by no state, since a fetch reads the whole length. SAFE. -/
  | shortFetch
  /-- The fetch of an instruction from a region of devices, whose answers no source gives (R333, D22). Raised by the fetch.
  SAFE. -/
  | deviceFetch (addr : Word)
  /-- The instruction to fetch holds a byte the program has stored to (R84, D4). Raised by the fetch. SAFE. -/
  | storedText (addr : Word)
  /-- A data access at an address not aligned to its size (R67, R242, D2). Raised by loads, stores and block transfers.
  SAFE. -/
  | misaligned (addr : Word)
  /-- Format 5 ADD, CMP or MOV with H1 = H2 = 0 (R122, U1). SAFE. -/
  | hiOpBothLo
  /-- BX with H1 = 1 (R122, U2). SAFE. -/
  | bxH1
  /-- BX with bits [2:0] other than 000 (R122, D7). SAFE. -/
  | bxLowBits
  /-- Format 16 with Cond = 1110 (R271, U3). SAFE. -/
  | condUndefined
  /-- A halfword of no format where the platform does not say that it traps (R123, D5). SAFE. -/
  | unallocated
  /-- BX to an address with bits [1:0] = 10 (R194, R283, U4). SAFE. -/
  | bxMisaligned (target : Word)
  /-- PUSH, POP, STMIA or LDMIA with an empty register list (R243, U9). SAFE. -/
  | emptyList
  /-- STMIA or LDMIA with the base register in the list (R250, U10). SAFE. -/
  | baseInList
  /-- An exception return in a mode without an SPSR (R320, U8). SAFE. -/
  | noSpsr
deriving DecidableEq, Repr

/-! ### Reset -/

/-- The machine right after power-on reset (R50, R360): the PC 0, Supervisor mode, I and F set, T clear. The registers,
flags and SPSRs the spec gives no value are 0 (DESIGN CHOICE, logs 3 to 5), memory holds nothing (log 6), the inputs are
quiet (log 8), no other master writes (log 31), and the pins and the memory map are at the spec's defaults (logs 1, 2, 32):
every address is RAM. -/
def State.reset : State where
  regs := Vector.replicate 30 0#32
  pc := 0#32
  cpsr := 0x000000D3#32
  spsrFiq := 0#32
  spsrIrq := 0#32
  spsrSvc := 0#32
  spsrAbt := 0#32
  spsrUnd := 0#32
  mem := []
  stored := []
  lines := Lines.quiet
  upcoming := []
  masters := []
  resetting := false
  memoryMap := [{ lo := 0#32, hi := 0xFFFFFFFF#32, kind := .ram }]
  bigend := false
  unallocTraps := false
  draws := 0

/-- What an instruction answers. -/
abbrev Result := Host.Outcome State Fault Refusal

end Sys2Proof.Machine
end

