-- ==== Sys2Proof/Machine/Flags.lean ====
section
/-! DEFINITION. The program status word (R35, 10_state.md) and every flag computation of the spec: addition with carry
(R40), the shifter (R41) and the conditions (R42). -/

namespace Sys2Proof.Machine

/-! ### Bits of a status word (R35; positions PRESUMED, GK1, log 20) -/

/-- A word with bit `i` set to `b`, every other bit kept. -/
def putBit (w : Word) (i : Nat) (b : Bool) : Word :=
  if b then w ||| BitVec.twoPow 32 i else w &&& ~~~BitVec.twoPow 32 i

/-- N of a status word. -/
def psrN (w : Word) : Bool := w.getLsbD 31

/-- Z of a status word. -/
def psrZ (w : Word) : Bool := w.getLsbD 30

/-- C of a status word. -/
def psrC (w : Word) : Bool := w.getLsbD 29

/-- V of a status word. -/
def psrV (w : Word) : Bool := w.getLsbD 28

/-- I of a status word. -/
def psrI (w : Word) : Bool := w.getLsbD 7

/-- F of a status word. -/
def psrF (w : Word) : Bool := w.getLsbD 6

/-- T of a status word. -/
def psrT (w : Word) : Bool := w.getLsbD 5

/-- M[4:0] of a status word. -/
def psrM (w : Word) : BitVec 5 := w.extractLsb' 0 5

/-- A status word with M[4:0] replaced. -/
def putM (w : Word) (m : BitVec 5) : Word := w.extractLsb' 5 27 ++ m

/-! ### Modes (R21) -/

/-- M[4:0] of a mode (R21). -/
def Mode.bits : Mode → BitVec 5
  | .usr => 0b10000#5
  | .fiq => 0b10001#5
  | .irq => 0b10010#5
  | .svc => 0b10011#5
  | .abt => 0b10111#5
  | .und => 0b11011#5
  | .sys => 0b11111#5

/-- The mode that M[4:0] selects; none for the 25 illegal values (R21). -/
def Mode.ofBits (m : BitVec 5) : Option Mode :=
  match m with
  | 0b10000#5 => some .usr
  | 0b10001#5 => some .fiq
  | 0b10010#5 => some .irq
  | 0b10011#5 => some .svc
  | 0b10111#5 => some .abt
  | 0b11011#5 => some .und
  | 0b11111#5 => some .sys
  | _ => none

/-! ### The CPSR of a state -/

/-- CPSR.N. -/
def State.flagN (s : State) : Bool := psrN s.cpsr

/-- CPSR.Z. -/
def State.flagZ (s : State) : Bool := psrZ s.cpsr

/-- CPSR.C. -/
def State.flagC (s : State) : Bool := psrC s.cpsr

/-- CPSR.V. -/
def State.flagV (s : State) : Bool := psrV s.cpsr

/-- CPSR.I. -/
def State.irqMasked (s : State) : Bool := psrI s.cpsr

/-- CPSR.F. -/
def State.fiqMasked (s : State) : Bool := psrF s.cpsr

/-- CPSR.T: true in THUMB state (R38). The output pin TBIT shows it (R35). -/
def State.thumb (s : State) : Bool := psrT s.cpsr

/-- CPSR.M[4:0] (R21). -/
def State.modeBits (s : State) : BitVec 5 := psrM s.cpsr

/-- The mode, or none where M[4:0] is illegal (R21). -/
def State.mode (s : State) : Option Mode := Mode.ofBits s.modeBits

/-- The output pins nM[4:0]: the inverse of the mode bits (R35). -/
def State.pinNM (s : State) : BitVec 5 := ~~~s.modeBits

/-- Whether accesses are marked as User mode's (nTRANS LOW, R35, R73). -/
def State.userMode (s : State) : Bool := s.mode = some .usr

/-- N and Z from a result, R10's `SetNZ`. -/
def State.setNZ (s : State) (r : Word) : State :=
  { s with cpsr := putBit (putBit s.cpsr 31 (r.getLsbD 31)) 30 (r == 0#32) }

/-- CPSR.C written. -/
def State.setC (s : State) (c : Bool) : State := { s with cpsr := putBit s.cpsr 29 c }

/-- CPSR.V written. -/
def State.setV (s : State) (v : Bool) : State := { s with cpsr := putBit s.cpsr 28 v }

/-- CPSR.T written (R38). -/
def State.setT (s : State) (t : Bool) : State := { s with cpsr := putBit s.cpsr 5 t }

/-! ### Addition with carry (R40) -/

/-- What `AddWithCarry` returns. -/
structure Sum where
  value : Word
  carry : Bool
  overflow : Bool
deriving DecidableEq, Repr

/-- R40: the sum in unbounded integers, and whether narrowing it changed its unsigned and its signed value. -/
def addWithCarry (a b : Word) (c : Bool) : Sum :=
  let usum : Nat := a.toNat + b.toNat + c.toNat
  let ssum : Int := a.toInt + b.toInt + c.toNat
  let r : Word := BitVec.ofNat 32 usum
  { value := r, carry := decide (2 ^ 32 ≤ usum), overflow := decide (r.toInt ≠ ssum) }

/-! ### The shifter (R41; PRESUMED, GK4, GK5, log 21) -/

/-- The four shifts of R41. -/
inductive ShiftKind where
  | lsl | lsr | asr | ror
deriving DecidableEq, Repr

/-- What `Shift_C` returns. -/
structure Shifted where
  value : Word
  carry : Bool
deriving DecidableEq, Repr

/-- R41's LSL row. -/
def shiftLsl (v : Word) (n : Nat) (cin : Bool) : Shifted :=
  if n = 0 then ⟨v, cin⟩
  else if n < 32 then ⟨v <<< n, v.getLsbD (32 - n)⟩
  else if n = 32 then ⟨0#32, v.getLsbD 0⟩
  else ⟨0#32, false⟩

/-- R41's LSR row. -/
def shiftLsr (v : Word) (n : Nat) (cin : Bool) : Shifted :=
  if n = 0 then ⟨v, cin⟩
  else if n < 32 then ⟨v >>> n, v.getLsbD (n - 1)⟩
  else if n = 32 then ⟨0#32, v.getLsbD 31⟩
  else ⟨0#32, false⟩

/-- R41's ASR row. -/
def shiftAsr (v : Word) (n : Nat) (cin : Bool) : Shifted :=
  if n = 0 then ⟨v, cin⟩
  else if n < 32 then ⟨v.sshiftRight n, v.getLsbD (n - 1)⟩
  else ⟨if v.getLsbD 31 then BitVec.allOnes 32 else 0#32, v.getLsbD 31⟩

/-- R41's ROR row. -/
def shiftRor (v : Word) (n : Nat) (cin : Bool) : Shifted :=
  if n = 0 then ⟨v, cin⟩
  else if n % 32 = 0 then ⟨v, v.getLsbD 31⟩
  else ⟨(v >>> (n % 32)) ||| (v <<< (32 - n % 32)), v.getLsbD (n % 32 - 1)⟩

/-- `Shift_C` of R41. -/
def shiftC (k : ShiftKind) (v : Word) (n : Nat) (cin : Bool) : Shifted :=
  match k with
  | .lsl => shiftLsl v n cin
  | .lsr => shiftLsr v n cin
  | .asr => shiftAsr v n cin
  | .ror => shiftRor v n cin

/-! ### Conditions (R42, R282) -/

/-- R42's table on the four flags; 1110 is AL in an ARM word (R282). 1111 is no condition: the decoder never lets it
through, and it passes nothing. -/
def condHolds (cond : BitVec 4) (n z c v : Bool) : Bool :=
  match cond with
  | 0x0#4 => z
  | 0x1#4 => !z
  | 0x2#4 => c
  | 0x3#4 => !c
  | 0x4#4 => n
  | 0x5#4 => !n
  | 0x6#4 => v
  | 0x7#4 => !v
  | 0x8#4 => c && !z
  | 0x9#4 => !c || z
  | 0xA#4 => n == v
  | 0xB#4 => n != v
  | 0xC#4 => !z && (n == v)
  | 0xD#4 => z || (n != v)
  | 0xE#4 => true
  | _ => false

/-- `CondPassed(cond)` of R42. -/
def State.condPassed (s : State) (cond : BitVec 4) : Bool :=
  condHolds cond s.flagN s.flagZ s.flagC s.flagV

end Sys2Proof.Machine
end

