-- ==== Sys2Proof/Machine/Ops.lean ====
section
/-! DEFINITION. The named operations over registers and memory, and taking an exception and returning from one. -/

namespace Sys2Proof.Machine

/-! ### Registers (R22, R23, 10_state.md) -/

/-- A bank's place among the six. -/
def Bank.index : Bank → Fin 6
  | .usr => 0
  | .fiq => 1
  | .irq => 2
  | .svc => 3
  | .abt => 4
  | .und => 5

/-- A physical register's place in `State.regs`. -/
def PhysReg.index : PhysReg → Fin 30
  | .lo i => ⟨i.val, by omega⟩
  | .mid i => ⟨8 + i.val, by omega⟩
  | .midFiq i => ⟨13 + i.val, by omega⟩
  | .r13 b => ⟨18 + b.index.val, by omega⟩
  | .r14 b => ⟨24 + b.index.val, by omega⟩

/-- The copy of R13 and R14 a mode sees (R22): System shares User's. -/
def Mode.bank : Mode → Bank
  | .usr => .usr
  | .fiq => .fiq
  | .irq => .irq
  | .svc => .svc
  | .abt => .abt
  | .und => .und
  | .sys => .usr

/-- R23's `phys(m, i)`: the physical register that number `i` names in mode `m`, none for R15. An illegal mode (`none`) is
given User's registers: no step reads a register in it (log 10). -/
def phys (m : Option Mode) (i : RegNum) : Option PhysReg :=
  if h : i.val < 8 then some (.lo ⟨i.val, h⟩)
  else if h : i.val < 13 then
    if m = some .fiq then some (.midFiq ⟨i.val - 8, by omega⟩) else some (.mid ⟨i.val - 8, by omega⟩)
  else if i.val = 13 then some (.r13 ((m.map Mode.bank).getD .usr))
  else if i.val = 14 then some (.r14 ((m.map Mode.bank).getD .usr))
  else none

/-- The content of a physical register. -/
def State.getPhys (s : State) (p : PhysReg) : Word := s.regs[p.index.val]

/-- A physical register written. -/
def State.setPhys (s : State) (p : PhysReg) (v : Word) : State :=
  { s with regs := s.regs.set p.index.val v p.index.isLt }

/-- What reading R15 gives: the instruction's address + 4 in THUMB state (R29), + 8 in ARM state (R290). -/
def State.readPc (s : State) : Word := if s.thumb then s.pc + 4#32 else s.pc + 8#32

/-- A THUMB control transfer that keeps the state: bit 0 is dropped (R30). -/
def State.branchThumb (s : State) (target : Word) : State := { s with pc := target &&& ~~~1#32 }

/-- An ARM control transfer that keeps the state: bits [1:0] are dropped (R30). -/
def State.branchArm (s : State) (target : Word) : State := { s with pc := target &&& ~~~3#32 }

/-- A control transfer that keeps the state, in either state (R30). -/
def State.branch (s : State) (target : Word) : State :=
  if s.thumb then s.branchThumb target else s.branchArm target

/-- Read of `x[i]` in the current mode (R10, R23). -/
def State.readReg (s : State) (i : RegNum) : Word :=
  match phys s.mode i with
  | some p => s.getPhys p
  | none => s.readPc

/-- Write of `x[i]` in the current mode (R10, R23): a write of R15 is a control transfer. -/
def State.writeReg (s : State) (i : RegNum) (v : Word) : State :=
  match phys s.mode i with
  | some p => s.setPhys p v
  | none => s.branch v

/-- Past a THUMB instruction (R31). -/
def State.advanceThumb (s : State) : State := { s with pc := s.pc + 2#32 }

/-- Past an ARM instruction (R31). -/
def State.advanceArm (s : State) : State := { s with pc := s.pc + 4#32 }

/-! ### Memory (R60 to R65, 20_memory.md) -/

/-- The byte at an address; none where the byte holds no value: what an unlisted address reads as (D11, log 6). -/
def readCell : List Host.Cell → Nat → Option Byte
  | [], _ => none
  | (k, b) :: m, a => if k = a then some b else readCell m a

/-- The byte at an address written, addresses kept strictly rising. -/
def writeCell : List Host.Cell → Nat → Byte → List Host.Cell
  | [], a, b => [(a, b)]
  | (k, c) :: m, a, b =>
    if a < k then (a, b) :: (k, c) :: m
    else if a = k then (a, b) :: m
    else (k, c) :: writeCell m a b

/-- An address put into a strictly rising list of addresses. -/
def insertAddr : List Nat → Nat → List Nat
  | [], a => [a]
  | k :: l, a => if a < k then a :: k :: l else if a = k then k :: l else k :: insertAddr l a

/-- An address taken out of a list of addresses. -/
def removeAddr (l : List Nat) (a : Nat) : List Nat := l.filter (fun k => k != a)

/-- The canonical form of memory: addresses strictly rising and below 2^32. No entry can equal what an unlisted address
reads as, since an unlisted address reads as no value. -/
abbrev Memory.wf (m : List Host.Cell) : Prop :=
  m.Pairwise (fun c d => c.1 < d.1) ∧ ∀ c ∈ m, c.1 < 2 ^ 32

/-- The byte at an address of the machine. -/
def State.readByte (s : State) (a : Word) : Option Byte := readCell s.mem a.toNat

/-- The halfword at an address (R64). -/
def State.readHalf (s : State) (a : Word) : Option Half :=
  match s.readByte a, s.readByte (a + 1#32) with
  | some b0, some b1 => some (halfOfBytes s.bigend b0 b1)
  | _, _ => none

/-- The word at an address (R63, R64). -/
def State.readWord (s : State) (a : Word) : Option Word :=
  match s.readByte a, s.readByte (a + 1#32), s.readByte (a + 2#32), s.readByte (a + 3#32) with
  | some b0, some b1, some b2, some b3 => some (wordOfBytes s.bigend b0 b1 b2 b3)
  | _, _, _, _ => none

/-- R64's `MemRead(addr, n)`, the value zero-extended to a word. -/
def State.readMem (s : State) (z : Size) (a : Word) : Option Word :=
  match z with
  | .byte => (s.readByte a).map (fun b => b.setWidth 32)
  | .half => (s.readHalf a).map (fun h => h.setWidth 32)
  | .word => s.readWord a

/-- A byte of memory written by the program: the byte, and the record that the program stored there (R84). -/
def State.writeByte (s : State) (a : Word) (b : Byte) : State :=
  { s with mem := writeCell s.mem a.toNat b, stored := insertAddr s.stored a.toNat }

/-- A halfword of memory written by the program (R64). -/
def State.writeHalf (s : State) (a : Word) (h : Half) : State :=
  (s.writeByte a (byteOfHalf s.bigend h 0)).writeByte (a + 1#32) (byteOfHalf s.bigend h 1)

/-- A word of memory written by the program (R63, R64). -/
def State.writeWord (s : State) (a : Word) (w : Word) : State :=
  (((s.writeByte a (byteOfWord s.bigend w 0)).writeByte (a + 1#32) (byteOfWord s.bigend w 1)).writeByte
    (a + 2#32) (byteOfWord s.bigend w 2)).writeByte (a + 3#32) (byteOfWord s.bigend w 3)

/-- R64's `MemWrite(addr, n, v)` of the low bytes of a register's value (R200). -/
def State.writeMem (s : State) (z : Size) (a : Word) (v : Word) : State :=
  match z with
  | .byte => s.writeByte a (v.setWidth 8)
  | .half => s.writeHalf a (v.setWidth 16)
  | .word => s.writeWord a v

/-- How many bytes an access moves (R61). -/
def Size.bytes : Size → Nat
  | .byte => 1
  | .half => 2
  | .word => 4

/-- The output pins MAS[1:0] of an access (R70): never the reserved 11. -/
def Size.pinMAS : Size → BitVec 2
  | .byte => 0b00#2
  | .half => 0b01#2
  | .word => 0b10#2

/-- Whether an address is aligned to an access's size (R67). -/
def aligned (z : Size) (a : Word) : Bool := a.toNat % z.bytes == 0

/-! ### The memory map (R75, 20_memory.md; R333, 60_exceptions.md; D22) -/

/-- Whether an address lies in a region. -/
def Region.holds (r : Region) (a : Word) : Bool := decide (r.lo.toNat ≤ a.toNat) && decide (a.toNat ≤ r.hi.toNat)

/-- What stands at an address: the kind of the first region listed that holds it, none where no address exists. -/
def State.kindAt (s : State) (a : Word) : Option RegionKind := (s.memoryMap.find? (fun r => r.holds a)).map Region.kind

/-- The addresses of the bytes an access moves (R61). -/
def Size.addresses (z : Size) (a : Word) : List Word :=
  match z with
  | .byte => [a]
  | .half => [a, a + 1#32]
  | .word => [a, a + 1#32, a + 2#32, a + 3#32]

/-- Whether an access touches an address that does not exist. -/
def State.outside (s : State) (z : Size) (a : Word) : Bool := (z.addresses a).any (fun b => s.kindAt b == none)

/-- Whether an access touches an address of a device. -/
def State.onDevice (s : State) (z : Size) (a : Word) : Bool := (z.addresses a).any (fun b => s.kindAt b == some .device)

/-- Whether an access lies in RAM, where alone a store changes memory (log 32). -/
def State.inRam (s : State) (z : Size) (a : Word) : Bool := (z.addresses a).all (fun b => s.kindAt b == some .ram)

/-- A value cut to the bytes an access moves, the rest 0. -/
def Size.keep (z : Size) (v : Word) : Word :=
  match z with
  | .byte => (v.setWidth 8).setWidth 32
  | .half => (v.setWidth 16).setWidth 32
  | .word => v

/-- What a device answers to a load: a free value of the access's size (log 32). -/
def State.deviceRead (s : State) (z : Size) : Word := z.keep (Config.deviceData s.draws)

/-- One more free value drawn (log 11). -/
def State.drew (s : State) : State := { s with draws := s.draws + 1 }

/-! ### Aborts (R73, R76, D22, D23) -/

/-- What the memory system sees of an access (R73). -/
structure Access where
  addr : Word
  size : Size
  kind : AccessKind
  user : Bool
deriving DecidableEq, Repr

/-- Whether a rule names the access's kind and privilege and a byte of it. -/
def AbortRule.hits (r : AbortRule) (x : Access) : Bool :=
  (match x.kind with
    | .fetch => r.onFetch
    | .read => r.onRead
    | .write => r.onWrite) &&
  (if x.user then r.inUser else r.inPrivileged) &&
  decide (r.lo.toNat < x.addr.toNat + x.size.bytes) && decide (x.addr.toNat ≤ r.hi.toNat)

/-- Whether the memory system answers an access of the core with ABORT (R76): where an abort rule says so, and where the access
touches an address outside the memory map, the answer D22 calls typical (log 32). -/
def State.aborts (s : State) (k : AccessKind) (z : Size) (a : Word) : Bool :=
  s.outside z a || s.lines.aborts.any (fun r => r.hits { addr := a, size := z, kind := k, user := s.userMode })

/-! ### Taking an exception (R303, R305 to R307, 60_exceptions.md) -/

/-- The seven exceptions (R303). -/
inductive Exc where
  | reset | undefined | swi | prefetchAbort | dataAbort | irq | fiq
deriving DecidableEq, Repr

/-- The mode an exception enters (R303). -/
def Exc.mode : Exc → Mode
  | .reset => .svc
  | .undefined => .und
  | .swi => .svc
  | .prefetchAbort => .abt
  | .dataAbort => .abt
  | .irq => .irq
  | .fiq => .fiq

/-- The vector of an exception (R75, R303): fixed, 0x14 being reserved (R322). -/
def Exc.vector : Exc → Word
  | .reset => 0x00#32
  | .undefined => 0x04#32
  | .swi => 0x08#32
  | .prefetchAbort => 0x0C#32
  | .dataAbort => 0x10#32
  | .irq => 0x18#32
  | .fiq => 0x1C#32

/-- Whether an exception's entry sets F: reset and FIQ (R307; PRESUMED, GK12, log 25). -/
def Exc.setsF : Exc → Bool
  | .reset => true
  | .fiq => true
  | _ => false

/-- The SPSR of a mode; none in User and System mode (R21, R44). -/
def State.spsrOf (s : State) : Mode → Option Word
  | .usr => none
  | .fiq => some s.spsrFiq
  | .irq => some s.spsrIrq
  | .svc => some s.spsrSvc
  | .abt => some s.spsrAbt
  | .und => some s.spsrUnd
  | .sys => none

/-- The SPSR of a mode written; User and System mode have none. -/
def State.setSpsrOf (s : State) (m : Mode) (v : Word) : State :=
  match m with
  | .usr => s
  | .fiq => { s with spsrFiq := v }
  | .irq => { s with spsrIrq := v }
  | .svc => { s with spsrSvc := v }
  | .abt => { s with spsrAbt := v }
  | .und => { s with spsrUnd := v }
  | .sys => s

/-- The CPSR after an exception's entry (R305, steps 3 and the disable bits of R307): M the mode's, T clear, I set, F set by
reset and FIQ, every other bit kept. -/
def Exc.cpsrAfter (k : Exc) (old : Word) : Word :=
  let w := putBit (putBit (putM old k.mode.bits) 5 false) 7 true
  if k.setsF then putBit w 6 true else w

/-- Exception entry with the saved pair given (R305): the link and the saved status into R14 and SPSR of the mode entered,
the CPSR as `cpsrAfter`, the PC at the vector. -/
def State.enter (s : State) (k : Exc) (link saved : Word) : State :=
  let t := (s.setPhys (.r14 k.mode.bank) link).setSpsrOf k.mode saved
  { t with cpsr := k.cpsrAfter s.cpsr, pc := k.vector }

/-- Taking an exception (R305): `link` is the value of R306, and the CPSR is saved whole. -/
def State.takeException (s : State) (k : Exc) (link : Word) : State := s.enter k link s.cpsr

/-- The reset sequence (R360): exception entry with a saved pair that is not defined, two free values. -/
def State.takeReset (s : State) : State :=
  (s.enter .reset (Config.resetLink s.draws) (Config.resetSaved s.draws)).drew

/-- Whether a part of the state was about to change: it differs in the state `after` the work, and where the model does not
know that state it may have been about to. -/
def changing {α : Type} [DecidableEq α] (after : Option State) (part : State → α) (s : State) : Bool :=
  match after with
  | some t => part t != part s
  | none => true

/-- An instruction abandoned by a reset (R361, U18), `after` being the state it would have led to, none where the model does
not know it: every register, SPSR and byte of memory and every bit of the CPSR that it was about to change holds a free
value, all else is kept (log 37). -/
def State.abandon (s : State) (after : Option State) : State :=
  let spsr (n : Nat) (part : State → Word) : Word :=
    if changing after part s then Config.abandonedSpsr s.draws n else part s
  { s with
    regs := Vector.ofFn (fun i : Fin 30 =>
      if changing after (fun t => t.regs[i]) s then Config.abandonedReg s.draws i.val else s.regs[i])
    cpsr := s.cpsr ^^^ ((after.elim (BitVec.allOnes 32) (fun t => t.cpsr ^^^ s.cpsr)) &&& Config.abandonedCpsr s.draws)
    spsrFiq := spsr 0 State.spsrFiq
    spsrIrq := spsr 1 State.spsrIrq
    spsrSvc := spsr 2 State.spsrSvc
    spsrAbt := spsr 3 State.spsrAbt
    spsrUnd := spsr 4 State.spsrUnd
    mem := ((after.getD s).mem).map (fun c =>
      (c.1, if changing after (fun t => readCell t.mem c.1) s then Config.abandonedByte s.draws c.1 else c.2))
    stored := (after.getD s).stored
    draws := (after.getD s).draws + 1 }

/-- A data abort of the instruction at the PC (R313): the link is its address + 8 (R306). `t` is the state after what R313 lets
the aborted instruction do; it has not moved the PC. -/
def State.dataAbort (t : State) : State := t.takeException .dataAbort (t.pc + 8#32)

/-- Exception return (R320): CPSR from the SPSR of the current mode, whole, and the PC from `v`, aligned for the state
returned to. A mode without an SPSR refuses (U8). An SPSR with an illegal mode makes the machine stuck: `nextEvent` sees the
illegal mode (U6, log 10). -/
def State.exceptionReturn (s : State) (v : Word) : Result :=
  match s.mode.bind s.spsrOf with
  | none => .refused .noSpsr
  | some w => .next { s with cpsr := w, pc := if psrT w then v &&& ~~~1#32 else v &&& ~~~3#32 }

/-! ### One data access (R200) -/

/-- A load: a misaligned address refuses (R67), an aborted access takes a data abort with nothing changed (R313), a device
answers with a free value (log 32), a byte without a value faults (D11); else `k` goes on with the value read,
zero-extended. -/
def State.load (s : State) (z : Size) (a : Word) (k : Word → State) : Result :=
  if aligned z a then
    if s.aborts .read z a then .next s.dataAbort
    else if s.onDevice z a then .next (k (s.deviceRead z)).drew
    else match s.readMem z a with
      | some v => .next (k v)
      | none => .fault (.unwritten a)
  else .refused (.misaligned a)

/-- A store: a misaligned address refuses (R67), an aborted access takes a data abort with memory unchanged (R313, R314);
else memory is written and the PC advances; in ROM and at a device no byte of memory changes (log 32). -/
def State.store (s : State) (z : Size) (a v : Word) : Result :=
  if aligned z a then
    if s.aborts .write z a then .next s.dataAbort
    else if s.inRam z a then .next (s.writeMem z a v).advanceThumb
    else .next s.advanceThumb
  else .refused (.misaligned a)

/-! ### Block transfers (R240 to R244, 45_thumb_multiple.md) -/

/-- The Lo registers of a register list, in ascending order (R240). -/
def regList (rlist : BitVec 8) : List RegNum :=
  ([0, 1, 2, 3, 4, 5, 6, 7] : List RegNum).filter (fun i => rlist.getLsbD i.val)

/-- The stores of a block transfer from address `a` on: the state after them and whether one was aborted. An aborted store
changes no memory, the others are performed (R244, D15, log 27), each as `State.store` has it. -/
def State.storeMany (s : State) : List RegNum → Word → State × Bool
  | [], _ => (s, false)
  | r :: rs, a =>
    if s.aborts .write .word a then
      let t := s.storeMany rs (a + 4#32)
      (t.1, true)
    else if s.inRam .word a then (s.writeWord a (s.readReg r)).storeMany rs (a + 4#32)
    else s.storeMany rs (a + 4#32)

/-- What the loads of a block transfer come to. -/
inductive Loaded where
  /-- Every register loaded. -/
  | done (t : State)
  /-- A load was aborted: the registers before it are loaded, it and those after it are not (R244). -/
  | aborted (t : State)
  /-- A word to load has a byte that holds no value. -/
  | unwritten (a : Word)
deriving DecidableEq, Repr

/-- The loads of a block transfer from address `a` on (R241, R244). -/
def State.loadMany (s : State) : List RegNum → Word → Loaded
  | [], _ => .done s
  | r :: rs, a =>
    if s.aborts .read .word a then .aborted s
    else if s.onDevice .word a then (s.writeReg r (s.deviceRead .word)).drew.loadMany rs (a + 4#32)
    else match s.readWord a with
      | some v => (s.writeReg r v).loadMany rs (a + 4#32)
      | none => .unwritten a

/-- A block store of `regs` at `start`, the base register written back to `final` (R244, R245, R248). -/
def State.blockStore (s : State) (regs : List RegNum) (start : Word) (base : RegNum) (final : Word) : Result :=
  if regs.isEmpty then .refused .emptyList
  else if aligned .word start then
    let r := s.storeMany regs start
    let t := r.1.writeReg base final
    if r.2 then .next t.dataAbort else .next t.advanceThumb
  else .refused (.misaligned start)

/-- A block load of `regs` from `start`, the base register written back to `final` (R244, R246, R249). The PC advances but
where R15 was loaded. -/
def State.blockLoad (s : State) (regs : List RegNum) (start : Word) (base : RegNum) (final : Word) : Result :=
  if regs.isEmpty then .refused .emptyList
  else if aligned .word start then
    match s.loadMany regs start with
    | .done t =>
      if regs.contains 15 then .next (t.writeReg base final) else .next (t.writeReg base final).advanceThumb
    | .aborted t => .next (t.writeReg base final).dataAbort
    | .unwritten a => .fault (.unwritten a)
  else .refused (.misaligned start)

/-! ### Input lines -/

/-- The lines at the next instruction boundary: the host's next levels, or the present ones where it gives no more (R315:
the inputs are levels; log 8). -/
def State.advanceLines (s : State) : State :=
  match s.upcoming with
  | [] => s
  | l :: ls => { s with lines := l, upcoming := ls }

/-! ### Other bus masters (R80, 20_memory.md; R334, 60_exceptions.md; log 31) -/

/-- Memory after some writes of other masters, in their order. The record of the bytes the program has stored to is kept. -/
def State.busWrites (s : State) (ws : List BusWrite) : State :=
  { s with mem := ws.foldl (fun m w => writeCell m w.addr.toNat w.byte) s.mem }

/-- What the other masters write in this step. -/
def State.turn (s : State) : BusTurn := s.masters.headD BusTurn.idle

/-- After the fetch: what the other masters write before the data accesses of the instruction. -/
def State.midBus (s : State) : State := s.busWrites s.turn.between

/-- The end of a step: the other masters' later writes, their turn being over; the lines at the next boundary; and whether
this step was one of a reset. -/
def State.endStep (s : State) : State :=
  { (s.busWrites s.turn.after).advanceLines with masters := s.masters.tail, resetting := s.lines.reset }

end Sys2Proof.Machine
end

