-- ==== Sys2Proof/Machine/Operands.lean ====
section
/-! DEFINITION. The operand forms: register fields (R105, R190), immediates (R120) and addresses (R201 to R217, R231,
R255). -/

namespace Sys2Proof.Machine

/-! ### Register fields -/

/-- A 3-bit field that names a Lo register, R0 to R7. -/
def loReg (r : BitVec 3) : RegNum := ⟨r.toNat, by have := r.isLt; omega⟩

/-- A 3-bit field that names a Hi register, R8 to R15 (R105). -/
def hiReg (r : BitVec 3) : RegNum := ⟨8 + r.toNat, by have := r.isLt; omega⟩

/-- A 4-bit register field of an ARM instruction (R283). -/
def armReg (r : BitVec 4) : RegNum := ⟨r.toNat, r.isLt⟩

/-- The number of SP (R24). -/
def spReg : RegNum := 13

/-- The number of LR (R24). -/
def lrReg : RegNum := 14

/-- The number of the PC. -/
def pcReg : RegNum := 15

/-! ### Immediates (R120) -/

/-- An unsigned field. -/
def immU {n : Nat} (imm : BitVec n) : Word := imm.setWidth 32

/-- An unsigned field of halfwords: shifted left by 1 (format 10; format 19's second half). -/
def immU2 {n : Nat} (imm : BitVec n) : Word := (imm.setWidth 32) <<< 1

/-- An unsigned field of words: shifted left by 2 (formats 6, 9, 11, 12, 13). -/
def immU4 {n : Nat} (imm : BitVec n) : Word := (imm.setWidth 32) <<< 2

/-- A signed field of halfwords (formats 16 and 18). -/
def immS2 {n : Nat} (imm : BitVec n) : Word := (imm.signExtend 32) <<< 1

/-- A signed field of words (ARM B and BL, R288). -/
def immS4 {n : Nat} (imm : BitVec n) : Word := (imm.signExtend 32) <<< 2

/-- The high half of a long branch's offset: signed, shifted left by 12 (R275). -/
def immS12 (imm : BitVec 11) : Word := (imm.signExtend 32) <<< 12

/-- The amount of a shift right by an immediate: a field of 0 means 32 (R141; PRESUMED, GK4, log 21). -/
def rightAmount (off : BitVec 5) : Nat := if off = 0#5 then 32 else off.toNat

/-- The amount of a shift by a register: its bottom byte (R177; PRESUMED, GK5, log 21). -/
def regAmount (v : Word) : Nat := (v.extractLsb' 0 8).toNat

/-! ### Addresses -/

/-- The PC of a THUMB instruction as a word-aligned base: its address + 4 with bits [1:0] forced to 0 (R29, R201). -/
def State.pcBase (s : State) : Word := (s.pc + 4#32) &&& ~~~3#32

/-- The address of format 6 (R201). -/
def State.addrPc (s : State) (imm : BitVec 8) : Word := s.pcBase + immU4 imm

/-- The address of formats 7 and 8: base plus offset register (R202 to R209). -/
def State.addrReg (s : State) (rb ro : BitVec 3) : Word := s.readReg (loReg rb) + s.readReg (loReg ro)

/-- The address of a word access of format 9 (R210, R211). -/
def State.addrImm4 (s : State) (rb : BitVec 3) (off : BitVec 5) : Word := s.readReg (loReg rb) + immU4 off

/-- The address of a byte access of format 9 (R212, R213). -/
def State.addrImm1 (s : State) (rb : BitVec 3) (off : BitVec 5) : Word := s.readReg (loReg rb) + immU off

/-- The address of format 10 (R214, R215). -/
def State.addrImm2 (s : State) (rb : BitVec 3) (off : BitVec 5) : Word := s.readReg (loReg rb) + immU2 off

/-- The address of format 11 (R216, R217). -/
def State.addrSp (s : State) (imm : BitVec 8) : Word := s.readReg spReg + immU4 imm

/-- The target of a branch of formats 16 and 18 (R255). -/
def State.branchTarget {n : Nat} (s : State) (off : BitVec n) : Word := s.pc + 4#32 + immS2 off

/-! ### Extension of a loaded value (R207 to R209, R218) -/

/-- A loaded byte, sign-extended (R208). -/
def signByte (v : Word) : Word := (v.setWidth 8).signExtend 32

/-- A loaded halfword, sign-extended (R209). -/
def signHalf (v : Word) : Word := (v.setWidth 16).signExtend 32

end Sys2Proof.Machine
end

