-- ==== Sys2Proof/Machine/AddressSp.lean ====
section
/-! DEFINITION. THUMB formats 12 and 13: load address, add offset to the stack pointer (44_thumb_address_sp.md). -/

namespace Sys2Proof.Machine

/-- `ADD Rd, PC, #Imm` (R231): no flag is written. -/
def execAddPc (rd : BitVec 3) (imm : BitVec 8) (s : State) : Result :=
  .next (s.writeReg (loReg rd) (s.pcBase + immU4 imm)).advanceThumb

/-- `ADD Rd, SP, #Imm` (R232): no flag is written. -/
def execAddSp (rd : BitVec 3) (imm : BitVec 8) (s : State) : Result :=
  .next (s.writeReg (loReg rd) (s.readReg spReg + immU4 imm)).advanceThumb

/-- `ADD SP, #Imm` (R233): no flag is written. -/
def execAddSpPos (imm : BitVec 7) (s : State) : Result :=
  .next (s.writeReg spReg (s.readReg spReg + immU4 imm)).advanceThumb

/-- `ADD SP, #-Imm` (R234): sign and magnitude; no flag is written. -/
def execAddSpNeg (imm : BitVec 7) (s : State) : Result :=
  .next (s.writeReg spReg (s.readReg spReg - immU4 imm)).advanceThumb

end Sys2Proof.Machine
end

