-- ==== Sys2Proof/Machine/ShiftAddSub.lean ====
section
/-! DEFINITION. THUMB formats 1, 2 and 3: shifts by an immediate, add and subtract, operations with an 8-bit immediate
(40_thumb_shift_addsub_imm.md). -/

namespace Sys2Proof.Machine

/-! ### Shared by formats 1 to 4 -/

/-- A shift's result into Rd, N and Z from it, C from the shifter, V kept (R142, R145, R163). -/
def State.putShifted (s : State) (rd : BitVec 3) (x : Shifted) : Result :=
  .next (((s.writeReg (loReg rd) x.value).setNZ x.value).setC x.carry).advanceThumb

/-- The four flags of a sum (R40). -/
def State.setSumFlags (s : State) (x : Sum) : State := ((s.setNZ x.value).setC x.carry).setV x.overflow

/-- A sum into Rd, the four flags from it (R146). -/
def State.putSum (s : State) (rd : BitVec 3) (x : Sum) : Result :=
  .next ((s.writeReg (loReg rd) x.value).setSumFlags x).advanceThumb

/-- The four flags of a sum, no register written (R151). -/
def State.compareSum (s : State) (x : Sum) : Result := .next (s.setSumFlags x).advanceThumb

/-! ### Format 1 -/

/-- `LSL Rd, Rs, #Offset5` (R142). -/
def execLslImm (rd rs : BitVec 3) (off : BitVec 5) (s : State) : Result :=
  s.putShifted rd (shiftC .lsl (s.readReg (loReg rs)) off.toNat s.flagC)

/-- `LSR Rd, Rs, #Offset5` (R143). -/
def execLsrImm (rd rs : BitVec 3) (off : BitVec 5) (s : State) : Result :=
  s.putShifted rd (shiftC .lsr (s.readReg (loReg rs)) (rightAmount off) s.flagC)

/-- `ASR Rd, Rs, #Offset5` (R144). -/
def execAsrImm (rd rs : BitVec 3) (off : BitVec 5) (s : State) : Result :=
  s.putShifted rd (shiftC .asr (s.readReg (loReg rs)) (rightAmount off) s.flagC)

/-! ### Format 2 -/

/-- `ADD Rd, Rs, Rn` (R146). -/
def execAddReg (rd rs rn : BitVec 3) (s : State) : Result :=
  s.putSum rd (addWithCarry (s.readReg (loReg rs)) (s.readReg (loReg rn)) false)

/-- `ADD Rd, Rs, #Offset3` (R147). -/
def execAddImm3 (rd rs imm : BitVec 3) (s : State) : Result :=
  s.putSum rd (addWithCarry (s.readReg (loReg rs)) (immU imm) false)

/-- `SUB Rd, Rs, Rn` (R148). -/
def execSubReg (rd rs rn : BitVec 3) (s : State) : Result :=
  s.putSum rd (addWithCarry (s.readReg (loReg rs)) (~~~s.readReg (loReg rn)) true)

/-- `SUB Rd, Rs, #Offset3` (R149). -/
def execSubImm3 (rd rs imm : BitVec 3) (s : State) : Result :=
  s.putSum rd (addWithCarry (s.readReg (loReg rs)) (~~~immU imm) true)

/-! ### Format 3 -/

/-- `MOV Rd, #Offset8` (R150): N and Z only. -/
def execMovImm8 (rd : BitVec 3) (imm : BitVec 8) (s : State) : Result :=
  .next ((s.writeReg (loReg rd) (immU imm)).setNZ (immU imm)).advanceThumb

/-- `CMP Rd, #Offset8` (R151). -/
def execCmpImm8 (rd : BitVec 3) (imm : BitVec 8) (s : State) : Result :=
  s.compareSum (addWithCarry (s.readReg (loReg rd)) (~~~immU imm) true)

/-- `ADD Rd, #Offset8` (R152). -/
def execAddImm8 (rd : BitVec 3) (imm : BitVec 8) (s : State) : Result :=
  s.putSum rd (addWithCarry (s.readReg (loReg rd)) (immU imm) false)

/-- `SUB Rd, #Offset8` (R153). -/
def execSubImm8 (rd : BitVec 3) (imm : BitVec 8) (s : State) : Result :=
  s.putSum rd (addWithCarry (s.readReg (loReg rd)) (~~~immU imm) true)

end Sys2Proof.Machine
end

