-- ==== Sys2Proof/Machine/Alu.lean ====
section
/-! DEFINITION. THUMB format 4: the ALU operations (41_thumb_alu.md). -/

namespace Sys2Proof.Machine

/-- A logical result into Rd, N and Z from it, C and V kept (R145, R160). -/
def State.putLogical (s : State) (rd : BitVec 3) (r : Word) : Result :=
  .next ((s.writeReg (loReg rd) r).setNZ r).advanceThumb

/-- `AND Rd, Rs` (R161). -/
def execAndReg (rd rs : BitVec 3) (s : State) : Result :=
  s.putLogical rd (s.readReg (loReg rd) &&& s.readReg (loReg rs))

/-- `EOR Rd, Rs` (R162). -/
def execEorReg (rd rs : BitVec 3) (s : State) : Result :=
  s.putLogical rd (s.readReg (loReg rd) ^^^ s.readReg (loReg rs))

/-- `LSL Rd, Rs` (R163), the amount by R177. -/
def execLslReg (rd rs : BitVec 3) (s : State) : Result :=
  s.putShifted rd (shiftC .lsl (s.readReg (loReg rd)) (regAmount (s.readReg (loReg rs))) s.flagC)

/-- `LSR Rd, Rs` (R164), the amount by R177. -/
def execLsrReg (rd rs : BitVec 3) (s : State) : Result :=
  s.putShifted rd (shiftC .lsr (s.readReg (loReg rd)) (regAmount (s.readReg (loReg rs))) s.flagC)

/-- `ASR Rd, Rs` (R165), the amount by R177. -/
def execAsrReg (rd rs : BitVec 3) (s : State) : Result :=
  s.putShifted rd (shiftC .asr (s.readReg (loReg rd)) (regAmount (s.readReg (loReg rs))) s.flagC)

/-- `ADC Rd, Rs` (R166). -/
def execAdcReg (rd rs : BitVec 3) (s : State) : Result :=
  s.putSum rd (addWithCarry (s.readReg (loReg rd)) (s.readReg (loReg rs)) s.flagC)

/-- `SBC Rd, Rs` (R167). -/
def execSbcReg (rd rs : BitVec 3) (s : State) : Result :=
  s.putSum rd (addWithCarry (s.readReg (loReg rd)) (~~~s.readReg (loReg rs)) s.flagC)

/-- `ROR Rd, Rs` (R168), the amount by R177. -/
def execRorReg (rd rs : BitVec 3) (s : State) : Result :=
  s.putShifted rd (shiftC .ror (s.readReg (loReg rd)) (regAmount (s.readReg (loReg rs))) s.flagC)

/-- `TST Rd, Rs` (R169): no register is written. -/
def execTstReg (rd rs : BitVec 3) (s : State) : Result :=
  .next (s.setNZ (s.readReg (loReg rd) &&& s.readReg (loReg rs))).advanceThumb

/-- `NEG Rd, Rs` (R170). -/
def execNegReg (rd rs : BitVec 3) (s : State) : Result :=
  s.putSum rd (addWithCarry 0#32 (~~~s.readReg (loReg rs)) true)

/-- `CMP Rd, Rs` (R171): no register is written. -/
def execCmpReg (rd rs : BitVec 3) (s : State) : Result :=
  s.compareSum (addWithCarry (s.readReg (loReg rd)) (~~~s.readReg (loReg rs)) true)

/-- `CMN Rd, Rs` (R172): no register is written. -/
def execCmnReg (rd rs : BitVec 3) (s : State) : Result :=
  s.compareSum (addWithCarry (s.readReg (loReg rd)) (s.readReg (loReg rs)) false)

/-- `ORR Rd, Rs` (R173). -/
def execOrrReg (rd rs : BitVec 3) (s : State) : Result :=
  s.putLogical rd (s.readReg (loReg rd) ||| s.readReg (loReg rs))

/-- `MUL Rd, Rs` (R174): the low word of the product, N and Z from it, V kept, C a free value (D14, log 11). -/
def execMulReg (rd rs : BitVec 3) (s : State) : Result :=
  let r := s.readReg (loReg rs) * s.readReg (loReg rd)
  let t := (((s.writeReg (loReg rd) r).setNZ r).setC (Config.mulCarry s.draws)).advanceThumb
  .next { t with draws := s.draws + 1 }

/-- `BIC Rd, Rs` (R175). -/
def execBicReg (rd rs : BitVec 3) (s : State) : Result :=
  s.putLogical rd (s.readReg (loReg rd) &&& ~~~s.readReg (loReg rs))

/-- `MVN Rd, Rs` (R176). -/
def execMvnReg (rd rs : BitVec 3) (s : State) : Result :=
  s.putLogical rd (~~~s.readReg (loReg rs))

end Sys2Proof.Machine
end

