-- ==== Sys2Proof/Machine/HiReg.lean ====
section
/-! DEFINITION. THUMB format 5: the Hi register operations and BX (42_thumb_hireg_bx.md). -/

namespace Sys2Proof.Machine

/-- ADD of format 5 (R191): no flag is written; a result into R15 is a control transfer in THUMB state (R195). -/
def State.hiAdd (s : State) (d src : RegNum) : Result :=
  let r := s.readReg d + s.readReg src
  if d = pcReg then .next (s.writeReg d r) else .next (s.writeReg d r).advanceThumb

/-- CMP of format 5 (R192): the four flags, no register. -/
def State.hiCmp (s : State) (d src : RegNum) : Result :=
  s.compareSum (addWithCarry (s.readReg d) (~~~s.readReg src) true)

/-- MOV of format 5 (R193): no flag is written; a value into R15 is a control transfer in THUMB state (R195). -/
def State.hiMov (s : State) (d src : RegNum) : Result :=
  let r := s.readReg src
  if d = pcReg then .next (s.writeReg d r) else .next (s.writeReg d r).advanceThumb

/-- BX to the address `t` (R194, R283): bit 0 set enters THUMB state, bits [1:0] = 00 enter ARM state, bits [1:0] = 10 are
refused (U4, D26). -/
def State.branchExchange (s : State) (t : Word) : Result :=
  if t.getLsbD 0 then .next ((s.setT true).branchThumb t)
  else if t.getLsbD 1 then .refused (.bxMisaligned t)
  else .next { s.setT false with pc := t }

/-- `ADD Rd, Hs` (R191). -/
def execAddRdHs (rd hs : BitVec 3) (s : State) : Result := s.hiAdd (loReg rd) (hiReg hs)

/-- `ADD Hd, Rs` (R191). -/
def execAddHdRs (hd rs : BitVec 3) (s : State) : Result := s.hiAdd (hiReg hd) (loReg rs)

/-- `ADD Hd, Hs` (R191). -/
def execAddHdHs (hd hs : BitVec 3) (s : State) : Result := s.hiAdd (hiReg hd) (hiReg hs)

/-- `CMP Rd, Hs` (R192). -/
def execCmpRdHs (rd hs : BitVec 3) (s : State) : Result := s.hiCmp (loReg rd) (hiReg hs)

/-- `CMP Hd, Rs` (R192). -/
def execCmpHdRs (hd rs : BitVec 3) (s : State) : Result := s.hiCmp (hiReg hd) (loReg rs)

/-- `CMP Hd, Hs` (R192). -/
def execCmpHdHs (hd hs : BitVec 3) (s : State) : Result := s.hiCmp (hiReg hd) (hiReg hs)

/-- `MOV Rd, Hs` (R193). -/
def execMovRdHs (rd hs : BitVec 3) (s : State) : Result := s.hiMov (loReg rd) (hiReg hs)

/-- `MOV Hd, Rs` (R193). -/
def execMovHdRs (hd rs : BitVec 3) (s : State) : Result := s.hiMov (hiReg hd) (loReg rs)

/-- `MOV Hd, Hs` (R193). -/
def execMovHdHs (hd hs : BitVec 3) (s : State) : Result := s.hiMov (hiReg hd) (hiReg hs)

/-- `BX Rs` (R194). -/
def execBxRs (rs : BitVec 3) (s : State) : Result := s.branchExchange (s.readReg (loReg rs))

/-- `BX Hs` (R194). -/
def execBxHs (hs : BitVec 3) (s : State) : Result := s.branchExchange (s.readReg (hiReg hs))

end Sys2Proof.Machine
end

