-- ==== Sys2Proof/Machine/Arm.lean ====
section
/-! DEFINITION. The ARM-state subset (47_arm_state.md, R283 to R289); encodings PRESUMED (GK13, log 19). -/

namespace Sys2Proof.Machine

/-- An ARM instruction under its condition (R282): where it fails, only the PC advances. -/
def State.whenPassed (s : State) (cond : BitVec 4) (r : Result) : Result :=
  if s.condPassed cond then r else .next s.advanceArm

/-- The target of an ARM branch: its address + 8 plus the offset in words (R288). -/
def State.armTarget (s : State) (off : BitVec 24) : Word := s.pc + 8#32 + immS4 off

/-- ARM `BX Rn` (R283). -/
def execArmBx (cond rn : BitVec 4) (s : State) : Result :=
  s.whenPassed cond (s.branchExchange (if armReg rn = pcReg then s.pc + 8#32 else s.readReg (armReg rn)))

/-- ARM `MOVS PC, R14` (R284). -/
def execArmMovsPcLr (cond : BitVec 4) (s : State) : Result :=
  s.whenPassed cond (s.exceptionReturn (s.readReg lrReg))

/-- ARM `SUBS PC, R14, #4` (R285). -/
def execArmSubsPcLr4 (cond : BitVec 4) (s : State) : Result :=
  s.whenPassed cond (s.exceptionReturn (s.readReg lrReg - 4#32))

/-- ARM `SUBS PC, R14, #8` (R286). -/
def execArmSubsPcLr8 (cond : BitVec 4) (s : State) : Result :=
  s.whenPassed cond (s.exceptionReturn (s.readReg lrReg - 8#32))

/-- ARM `MOV PC, R14` (R287): no flag, no mode and no state bit is written. -/
def execArmMovPcLr (cond : BitVec 4) (s : State) : Result :=
  s.whenPassed cond (.next (s.branchArm (s.readReg lrReg)))

/-- ARM `B label` (R288). -/
def execArmB (cond : BitVec 4) (off : BitVec 24) (s : State) : Result :=
  s.whenPassed cond (.next (s.branchArm (s.armTarget off)))

/-- ARM `BL label` (R288): LR takes the next instruction's address. -/
def execArmBl (cond : BitVec 4) (off : BitVec 24) (s : State) : Result :=
  s.whenPassed cond (.next ((s.writeReg lrReg (s.pc + 4#32)).branchArm (s.armTarget off)))

/-- ARM `SWI value` (R289): the comment field is ignored. -/
def execArmSwi (cond : BitVec 4) (_comment : BitVec 24) (s : State) : Result :=
  s.whenPassed cond (.next (s.takeException .swi (s.pc + 4#32)))

end Sys2Proof.Machine
end

