-- ==== Sys2Proof/Machine/Branch.lean ====
section
/-! DEFINITION. THUMB formats 16 to 19: conditional branch, software interrupt, branch, long branch with link
(46_thumb_branch_swi.md). -/

namespace Sys2Proof.Machine

/-- A conditional branch of format 16 (R255): to `pc + 4` plus the offset where the condition passes, else past it. -/
def State.condBranch (s : State) (cond : BitVec 4) (off : BitVec 8) : Result :=
  if s.condPassed cond then .next (s.branchThumb (s.branchTarget off)) else .next s.advanceThumb

/-- `BEQ label` (R256). -/
def execBeq (off : BitVec 8) (s : State) : Result := s.condBranch 0x0#4 off

/-- `BNE label` (R257). -/
def execBne (off : BitVec 8) (s : State) : Result := s.condBranch 0x1#4 off

/-- `BCS label` (R258). -/
def execBcs (off : BitVec 8) (s : State) : Result := s.condBranch 0x2#4 off

/-- `BCC label` (R259). -/
def execBcc (off : BitVec 8) (s : State) : Result := s.condBranch 0x3#4 off

/-- `BMI label` (R260). -/
def execBmi (off : BitVec 8) (s : State) : Result := s.condBranch 0x4#4 off

/-- `BPL label` (R261). -/
def execBpl (off : BitVec 8) (s : State) : Result := s.condBranch 0x5#4 off

/-- `BVS label` (R262). -/
def execBvs (off : BitVec 8) (s : State) : Result := s.condBranch 0x6#4 off

/-- `BVC label` (R263). -/
def execBvc (off : BitVec 8) (s : State) : Result := s.condBranch 0x7#4 off

/-- `BHI label` (R264). -/
def execBhi (off : BitVec 8) (s : State) : Result := s.condBranch 0x8#4 off

/-- `BLS label` (R265). -/
def execBls (off : BitVec 8) (s : State) : Result := s.condBranch 0x9#4 off

/-- `BGE label` (R266). -/
def execBge (off : BitVec 8) (s : State) : Result := s.condBranch 0xA#4 off

/-- `BLT label` (R267). -/
def execBlt (off : BitVec 8) (s : State) : Result := s.condBranch 0xB#4 off

/-- `BGT label` (R268). -/
def execBgt (off : BitVec 8) (s : State) : Result := s.condBranch 0xC#4 off

/-- `BLE label` (R269). -/
def execBle (off : BitVec 8) (s : State) : Result := s.condBranch 0xD#4 off

/-- `SWI Value8` (R270): takes the software interrupt, the link being the next instruction's address; the comment field is
ignored. -/
def execSwi (_value : BitVec 8) (s : State) : Result := .next (s.takeException .swi (s.pc + 2#32))

/-- `B label` (R272). -/
def execB (off : BitVec 11) (s : State) : Result := .next (s.branchThumb (s.branchTarget off))

/-- `BL label`, first halfword (R275): the link register takes `pc + 4` plus the high half of the offset. -/
def execBlHigh (off : BitVec 11) (s : State) : Result :=
  .next (s.writeReg lrReg (s.pc + 4#32 + immS12 off)).advanceThumb

/-- `BL label`, second halfword (R276): to LR plus the low half of the offset; LR takes the next instruction's address with
bit 0 set. -/
def execBlLow (off : BitVec 11) (s : State) : Result :=
  .next ((s.writeReg lrReg ((s.pc + 2#32) ||| 1#32)).branchThumb (s.readReg lrReg + immU2 off))

end Sys2Proof.Machine
end

