-- ==== Sys2Proof/Machine/LoadStore.lean ====
section
/-! DEFINITION. THUMB formats 6 to 11: the single register loads and stores (43_thumb_load_store.md). The narrow loads
without a sign extend with zeros (R218; PRESUMED, GK7, log 22). -/

namespace Sys2Proof.Machine

/-- A loaded value into a Lo register, past the instruction (R200). -/
def State.putLoaded (s : State) (rd : BitVec 3) (v : Word) : State := (s.writeReg (loReg rd) v).advanceThumb

/-! ### Format 6 -/

/-- `LDR Rd, [PC, #Imm]` (R201). -/
def execLdrPc (rd : BitVec 3) (imm : BitVec 8) (s : State) : Result := s.load .word (s.addrPc imm) (s.putLoaded rd)

/-! ### Formats 7 and 8 -/

/-- `STR Rd, [Rb, Ro]` (R202). -/
def execStrReg (rd rb ro : BitVec 3) (s : State) : Result :=
  s.store .word (s.addrReg rb ro) (s.readReg (loReg rd))

/-- `STRB Rd, [Rb, Ro]` (R203). -/
def execStrbReg (rd rb ro : BitVec 3) (s : State) : Result :=
  s.store .byte (s.addrReg rb ro) (s.readReg (loReg rd))

/-- `LDR Rd, [Rb, Ro]` (R204). -/
def execLdrReg (rd rb ro : BitVec 3) (s : State) : Result := s.load .word (s.addrReg rb ro) (s.putLoaded rd)

/-- `LDRB Rd, [Rb, Ro]` (R205). -/
def execLdrbReg (rd rb ro : BitVec 3) (s : State) : Result := s.load .byte (s.addrReg rb ro) (s.putLoaded rd)

/-- `STRH Rd, [Rb, Ro]` (R206). -/
def execStrhReg (rd rb ro : BitVec 3) (s : State) : Result :=
  s.store .half (s.addrReg rb ro) (s.readReg (loReg rd))

/-- `LDRH Rd, [Rb, Ro]` (R207). -/
def execLdrhReg (rd rb ro : BitVec 3) (s : State) : Result := s.load .half (s.addrReg rb ro) (s.putLoaded rd)

/-- `LDSB Rd, [Rb, Ro]` (R208). -/
def execLdsbReg (rd rb ro : BitVec 3) (s : State) : Result := s.load .byte (s.addrReg rb ro) (fun v => s.putLoaded rd (signByte v))

/-- `LDSH Rd, [Rb, Ro]` (R209). -/
def execLdshReg (rd rb ro : BitVec 3) (s : State) : Result := s.load .half (s.addrReg rb ro) (fun v => s.putLoaded rd (signHalf v))

/-! ### Formats 9 and 10 -/

/-- `STR Rd, [Rb, #Imm]` (R210). -/
def execStrImm (rd rb : BitVec 3) (off : BitVec 5) (s : State) : Result :=
  s.store .word (s.addrImm4 rb off) (s.readReg (loReg rd))

/-- `LDR Rd, [Rb, #Imm]` (R211). -/
def execLdrImm (rd rb : BitVec 3) (off : BitVec 5) (s : State) : Result := s.load .word (s.addrImm4 rb off) (s.putLoaded rd)

/-- `STRB Rd, [Rb, #Imm]` (R212). -/
def execStrbImm (rd rb : BitVec 3) (off : BitVec 5) (s : State) : Result :=
  s.store .byte (s.addrImm1 rb off) (s.readReg (loReg rd))

/-- `LDRB Rd, [Rb, #Imm]` (R213). -/
def execLdrbImm (rd rb : BitVec 3) (off : BitVec 5) (s : State) : Result := s.load .byte (s.addrImm1 rb off) (s.putLoaded rd)

/-- `STRH Rd, [Rb, #Imm]` (R214). -/
def execStrhImm (rd rb : BitVec 3) (off : BitVec 5) (s : State) : Result :=
  s.store .half (s.addrImm2 rb off) (s.readReg (loReg rd))

/-- `LDRH Rd, [Rb, #Imm]` (R215). -/
def execLdrhImm (rd rb : BitVec 3) (off : BitVec 5) (s : State) : Result := s.load .half (s.addrImm2 rb off) (s.putLoaded rd)

/-! ### Format 11 -/

/-- `STR Rd, [SP, #Imm]` (R216). -/
def execStrSp (rd : BitVec 3) (imm : BitVec 8) (s : State) : Result :=
  s.store .word (s.addrSp imm) (s.readReg (loReg rd))

/-- `LDR Rd, [SP, #Imm]` (R217). -/
def execLdrSp (rd : BitVec 3) (imm : BitVec 8) (s : State) : Result := s.load .word (s.addrSp imm) (s.putLoaded rd)

end Sys2Proof.Machine
end

