-- ==== Sys2Proof/Machine/Multiple.lean ====
section
/-! DEFINITION. THUMB formats 14 and 15: PUSH, POP, STMIA, LDMIA (45_thumb_multiple.md). -/

namespace Sys2Proof.Machine

/-- Four times the length of a register list: the bytes a block transfer moves. -/
def listBytes (regs : List RegNum) : Word := BitVec.ofNat 32 (4 * regs.length)

/-- PUSH of some registers (R245): full descending, the lowest register at the lowest address. -/
def State.pushRegs (s : State) (regs : List RegNum) : Result :=
  let start := s.readReg spReg - listBytes regs
  s.blockStore regs start spReg start

/-- POP of some registers (R246). -/
def State.popRegs (s : State) (regs : List RegNum) : Result :=
  let start := s.readReg spReg
  s.blockLoad regs start spReg (start + listBytes regs)

/-- `PUSH { Rlist }` (R245). -/
def execPush (rlist : BitVec 8) (s : State) : Result := s.pushRegs (regList rlist)

/-- `PUSH { Rlist, LR }` (R245). -/
def execPushLr (rlist : BitVec 8) (s : State) : Result := s.pushRegs (regList rlist ++ [lrReg])

/-- `POP { Rlist }` (R246). -/
def execPop (rlist : BitVec 8) (s : State) : Result := s.popRegs (regList rlist)

/-- `POP { Rlist, PC }` (R246): a control transfer that keeps the state. -/
def execPopPc (rlist : BitVec 8) (s : State) : Result := s.popRegs (regList rlist ++ [pcReg])

/-- `STMIA Rb!, { Rlist }` (R248); the base in the list is refused (R250). -/
def execStmia (rb : BitVec 3) (rlist : BitVec 8) (s : State) : Result :=
  if rlist.getLsbD rb.toNat then .refused .baseInList
  else
    let start := s.readReg (loReg rb)
    s.blockStore (regList rlist) start (loReg rb) (start + listBytes (regList rlist))

/-- `LDMIA Rb!, { Rlist }` (R249); the base in the list is refused (R250). -/
def execLdmia (rb : BitVec 3) (rlist : BitVec 8) (s : State) : Result :=
  if rlist.getLsbD rb.toNat then .refused .baseInList
  else
    let start := s.readReg (loReg rb)
    s.blockLoad (regList rlist) start (loReg rb) (start + listBytes (regList rlist))

end Sys2Proof.Machine
end

