-- ==== Sys2Proof/Machine/Undefined.lean ====
section
/-! DEFINITION. The THUMB halfwords the sources call undefined, those the spec does not admit, and the unallocated ones
(R122, R123, 30_encoding.md; R271, 46_thumb_branch_swi.md; R311, 60_exceptions.md). -/

namespace Sys2Proof.Machine

/-- Format 5 ADD with H1 = H2 = 0: "is undefined, and should not be used" (R122, U1, D6). -/
def execUndefAddLoLo (_x : BitVec 6) (_s : State) : Result := .refused .hiOpBothLo

/-- Format 5 CMP with H1 = H2 = 0: "is undefined, and should not be used" (R122, U1, D6). -/
def execUndefCmpLoLo (_x : BitVec 6) (_s : State) : Result := .refused .hiOpBothLo

/-- Format 5 MOV with H1 = H2 = 0: "is undefined, and should not be used" (R122, U1, D6). -/
def execUndefMovLoLo (_x : BitVec 6) (_s : State) : Result := .refused .hiOpBothLo

/-- BX with H1 = 1: "is undefined, and should not be used" (R122, U2, D6). -/
def execUndefBxH1 (_x : BitVec 7) (_s : State) : Result := .refused .bxH1

/-- BX with bits [2:0] = 1: not admitted (R122, D7). -/
def execBxLowBits1 (_x : BitVec 4) (_s : State) : Result := .refused .bxLowBits

/-- BX with bits [2:0] = 2: not admitted (R122, D7). -/
def execBxLowBits2 (_x : BitVec 4) (_s : State) : Result := .refused .bxLowBits

/-- BX with bits [2:0] = 3: not admitted (R122, D7). -/
def execBxLowBits3 (_x : BitVec 4) (_s : State) : Result := .refused .bxLowBits

/-- BX with bits [2:0] = 4: not admitted (R122, D7). -/
def execBxLowBits4 (_x : BitVec 4) (_s : State) : Result := .refused .bxLowBits

/-- BX with bits [2:0] = 5: not admitted (R122, D7). -/
def execBxLowBits5 (_x : BitVec 4) (_s : State) : Result := .refused .bxLowBits

/-- BX with bits [2:0] = 6: not admitted (R122, D7). -/
def execBxLowBits6 (_x : BitVec 4) (_s : State) : Result := .refused .bxLowBits

/-- BX with bits [2:0] = 7: not admitted (R122, D7). -/
def execBxLowBits7 (_x : BitVec 4) (_s : State) : Result := .refused .bxLowBits

/-- Format 16 with Cond = 1110: "is undefined, and should not be used" (R271, U3, D6). -/
def execUndefCond14 (_x : BitVec 8) (_s : State) : Result := .refused .condUndefined

/-- A halfword of no format (R123, R311): the undefined instruction trap where the platform's THUMB_UNALLOCATED_TRAPS says
so, else refused (D5, log 2). -/
def State.unallocated (s : State) : Result :=
  if s.unallocTraps then .next (s.takeException .undefined (s.pc + 2#32)) else .refused .unallocated

/-- Halfwords 0xB100 to 0xB1FF (R123). -/
def execUnallocB1 (_x : BitVec 8) (s : State) : Result := s.unallocated

/-- Halfwords 0xB200 to 0xB2FF (R123). -/
def execUnallocB2 (_x : BitVec 8) (s : State) : Result := s.unallocated

/-- Halfwords 0xB300 to 0xB3FF (R123). -/
def execUnallocB3 (_x : BitVec 8) (s : State) : Result := s.unallocated

/-- Halfwords 0xB600 to 0xB6FF (R123). -/
def execUnallocB6 (_x : BitVec 8) (s : State) : Result := s.unallocated

/-- Halfwords 0xB700 to 0xB7FF (R123). -/
def execUnallocB7 (_x : BitVec 8) (s : State) : Result := s.unallocated

/-- Halfwords 0xB800 to 0xB8FF (R123). -/
def execUnallocB8 (_x : BitVec 8) (s : State) : Result := s.unallocated

/-- Halfwords 0xB900 to 0xB9FF (R123). -/
def execUnallocB9 (_x : BitVec 8) (s : State) : Result := s.unallocated

/-- Halfwords 0xBA00 to 0xBAFF (R123). -/
def execUnallocBA (_x : BitVec 8) (s : State) : Result := s.unallocated

/-- Halfwords 0xBB00 to 0xBBFF (R123). -/
def execUnallocBB (_x : BitVec 8) (s : State) : Result := s.unallocated

/-- Halfwords 0xBE00 to 0xBEFF (R123). -/
def execUnallocBE (_x : BitVec 8) (s : State) : Result := s.unallocated

/-- Halfwords 0xBF00 to 0xBFFF (R123). -/
def execUnallocBF (_x : BitVec 8) (s : State) : Result := s.unallocated

/-- Halfwords 0xE800 to 0xEFFF (R123). -/
def execUnallocE8 (_x : BitVec 11) (s : State) : Result := s.unallocated

end Sys2Proof.Machine
end

