-- ==== Sys2Proof/Machine/Dispatch.lean ====
section
/-! DEFINITION. The dispatch: one arm per constructor of `Instr`, in the table's order. -/

namespace Sys2Proof.Machine

def exec (i : Instr) (s : State) : Host.Outcome State Fault Refusal :=
  match i with
  | .lslImm rd rs off => Sys2Proof.Machine.execLslImm rd rs off s
  | .lsrImm rd rs off => Sys2Proof.Machine.execLsrImm rd rs off s
  | .asrImm rd rs off => Sys2Proof.Machine.execAsrImm rd rs off s
  | .addReg rd rs rn => Sys2Proof.Machine.execAddReg rd rs rn s
  | .addImm3 rd rs imm => Sys2Proof.Machine.execAddImm3 rd rs imm s
  | .subReg rd rs rn => Sys2Proof.Machine.execSubReg rd rs rn s
  | .subImm3 rd rs imm => Sys2Proof.Machine.execSubImm3 rd rs imm s
  | .movImm8 rd imm => Sys2Proof.Machine.execMovImm8 rd imm s
  | .cmpImm8 rd imm => Sys2Proof.Machine.execCmpImm8 rd imm s
  | .addImm8 rd imm => Sys2Proof.Machine.execAddImm8 rd imm s
  | .subImm8 rd imm => Sys2Proof.Machine.execSubImm8 rd imm s
  | .andReg rd rs => Sys2Proof.Machine.execAndReg rd rs s
  | .eorReg rd rs => Sys2Proof.Machine.execEorReg rd rs s
  | .lslReg rd rs => Sys2Proof.Machine.execLslReg rd rs s
  | .lsrReg rd rs => Sys2Proof.Machine.execLsrReg rd rs s
  | .asrReg rd rs => Sys2Proof.Machine.execAsrReg rd rs s
  | .adcReg rd rs => Sys2Proof.Machine.execAdcReg rd rs s
  | .sbcReg rd rs => Sys2Proof.Machine.execSbcReg rd rs s
  | .rorReg rd rs => Sys2Proof.Machine.execRorReg rd rs s
  | .tstReg rd rs => Sys2Proof.Machine.execTstReg rd rs s
  | .negReg rd rs => Sys2Proof.Machine.execNegReg rd rs s
  | .cmpReg rd rs => Sys2Proof.Machine.execCmpReg rd rs s
  | .cmnReg rd rs => Sys2Proof.Machine.execCmnReg rd rs s
  | .orrReg rd rs => Sys2Proof.Machine.execOrrReg rd rs s
  | .mulReg rd rs => Sys2Proof.Machine.execMulReg rd rs s
  | .bicReg rd rs => Sys2Proof.Machine.execBicReg rd rs s
  | .mvnReg rd rs => Sys2Proof.Machine.execMvnReg rd rs s
  | .addRdHs rd hs => Sys2Proof.Machine.execAddRdHs rd hs s
  | .addHdRs hd rs => Sys2Proof.Machine.execAddHdRs hd rs s
  | .addHdHs hd hs => Sys2Proof.Machine.execAddHdHs hd hs s
  | .cmpRdHs rd hs => Sys2Proof.Machine.execCmpRdHs rd hs s
  | .cmpHdRs hd rs => Sys2Proof.Machine.execCmpHdRs hd rs s
  | .cmpHdHs hd hs => Sys2Proof.Machine.execCmpHdHs hd hs s
  | .movRdHs rd hs => Sys2Proof.Machine.execMovRdHs rd hs s
  | .movHdRs hd rs => Sys2Proof.Machine.execMovHdRs hd rs s
  | .movHdHs hd hs => Sys2Proof.Machine.execMovHdHs hd hs s
  | .bxRs rs => Sys2Proof.Machine.execBxRs rs s
  | .bxHs hs => Sys2Proof.Machine.execBxHs hs s
  | .ldrPc rd imm => Sys2Proof.Machine.execLdrPc rd imm s
  | .strReg rd rb ro => Sys2Proof.Machine.execStrReg rd rb ro s
  | .strbReg rd rb ro => Sys2Proof.Machine.execStrbReg rd rb ro s
  | .ldrReg rd rb ro => Sys2Proof.Machine.execLdrReg rd rb ro s
  | .ldrbReg rd rb ro => Sys2Proof.Machine.execLdrbReg rd rb ro s
  | .strhReg rd rb ro => Sys2Proof.Machine.execStrhReg rd rb ro s
  | .ldrhReg rd rb ro => Sys2Proof.Machine.execLdrhReg rd rb ro s
  | .ldsbReg rd rb ro => Sys2Proof.Machine.execLdsbReg rd rb ro s
  | .ldshReg rd rb ro => Sys2Proof.Machine.execLdshReg rd rb ro s
  | .strImm rd rb off => Sys2Proof.Machine.execStrImm rd rb off s
  | .ldrImm rd rb off => Sys2Proof.Machine.execLdrImm rd rb off s
  | .strbImm rd rb off => Sys2Proof.Machine.execStrbImm rd rb off s
  | .ldrbImm rd rb off => Sys2Proof.Machine.execLdrbImm rd rb off s
  | .strhImm rd rb off => Sys2Proof.Machine.execStrhImm rd rb off s
  | .ldrhImm rd rb off => Sys2Proof.Machine.execLdrhImm rd rb off s
  | .strSp rd imm => Sys2Proof.Machine.execStrSp rd imm s
  | .ldrSp rd imm => Sys2Proof.Machine.execLdrSp rd imm s
  | .addPc rd imm => Sys2Proof.Machine.execAddPc rd imm s
  | .addSp rd imm => Sys2Proof.Machine.execAddSp rd imm s
  | .addSpPos imm => Sys2Proof.Machine.execAddSpPos imm s
  | .addSpNeg imm => Sys2Proof.Machine.execAddSpNeg imm s
  | .push rlist => Sys2Proof.Machine.execPush rlist s
  | .pushLr rlist => Sys2Proof.Machine.execPushLr rlist s
  | .pop rlist => Sys2Proof.Machine.execPop rlist s
  | .popPc rlist => Sys2Proof.Machine.execPopPc rlist s
  | .stmia rb rlist => Sys2Proof.Machine.execStmia rb rlist s
  | .ldmia rb rlist => Sys2Proof.Machine.execLdmia rb rlist s
  | .beq off => Sys2Proof.Machine.execBeq off s
  | .bne off => Sys2Proof.Machine.execBne off s
  | .bcs off => Sys2Proof.Machine.execBcs off s
  | .bcc off => Sys2Proof.Machine.execBcc off s
  | .bmi off => Sys2Proof.Machine.execBmi off s
  | .bpl off => Sys2Proof.Machine.execBpl off s
  | .bvs off => Sys2Proof.Machine.execBvs off s
  | .bvc off => Sys2Proof.Machine.execBvc off s
  | .bhi off => Sys2Proof.Machine.execBhi off s
  | .bls off => Sys2Proof.Machine.execBls off s
  | .bge off => Sys2Proof.Machine.execBge off s
  | .blt off => Sys2Proof.Machine.execBlt off s
  | .bgt off => Sys2Proof.Machine.execBgt off s
  | .ble off => Sys2Proof.Machine.execBle off s
  | .swi value => Sys2Proof.Machine.execSwi value s
  | .b off => Sys2Proof.Machine.execB off s
  | .blHigh off => Sys2Proof.Machine.execBlHigh off s
  | .blLow off => Sys2Proof.Machine.execBlLow off s
  | .undefAddLoLo x => Sys2Proof.Machine.execUndefAddLoLo x s
  | .undefCmpLoLo x => Sys2Proof.Machine.execUndefCmpLoLo x s
  | .undefMovLoLo x => Sys2Proof.Machine.execUndefMovLoLo x s
  | .undefBxH1 x => Sys2Proof.Machine.execUndefBxH1 x s
  | .bxLowBits1 x => Sys2Proof.Machine.execBxLowBits1 x s
  | .bxLowBits2 x => Sys2Proof.Machine.execBxLowBits2 x s
  | .bxLowBits3 x => Sys2Proof.Machine.execBxLowBits3 x s
  | .bxLowBits4 x => Sys2Proof.Machine.execBxLowBits4 x s
  | .bxLowBits5 x => Sys2Proof.Machine.execBxLowBits5 x s
  | .bxLowBits6 x => Sys2Proof.Machine.execBxLowBits6 x s
  | .bxLowBits7 x => Sys2Proof.Machine.execBxLowBits7 x s
  | .undefCond14 x => Sys2Proof.Machine.execUndefCond14 x s
  | .unallocB1 x => Sys2Proof.Machine.execUnallocB1 x s
  | .unallocB2 x => Sys2Proof.Machine.execUnallocB2 x s
  | .unallocB3 x => Sys2Proof.Machine.execUnallocB3 x s
  | .unallocB6 x => Sys2Proof.Machine.execUnallocB6 x s
  | .unallocB7 x => Sys2Proof.Machine.execUnallocB7 x s
  | .unallocB8 x => Sys2Proof.Machine.execUnallocB8 x s
  | .unallocB9 x => Sys2Proof.Machine.execUnallocB9 x s
  | .unallocBA x => Sys2Proof.Machine.execUnallocBA x s
  | .unallocBB x => Sys2Proof.Machine.execUnallocBB x s
  | .unallocBE x => Sys2Proof.Machine.execUnallocBE x s
  | .unallocBF x => Sys2Proof.Machine.execUnallocBF x s
  | .unallocE8 x => Sys2Proof.Machine.execUnallocE8 x s
  | .armBx cond rn => Sys2Proof.Machine.execArmBx cond rn s
  | .armMovsPcLr cond => Sys2Proof.Machine.execArmMovsPcLr cond s
  | .armSubsPcLr4 cond => Sys2Proof.Machine.execArmSubsPcLr4 cond s
  | .armSubsPcLr8 cond => Sys2Proof.Machine.execArmSubsPcLr8 cond s
  | .armMovPcLr cond => Sys2Proof.Machine.execArmMovPcLr cond s
  | .armB cond off => Sys2Proof.Machine.execArmB cond off s
  | .armBl cond off => Sys2Proof.Machine.execArmBl cond off s
  | .armSwi cond comment => Sys2Proof.Machine.execArmSwi cond comment s

end Sys2Proof.Machine
end

