-- ==== Sys2Proof/Machine/Fetch.lean ====
section
/-! DEFINITION. Fetching an instruction, and what happens at an instruction boundary (R100, 30_encoding.md; R312, R315, R319,
60_exceptions.md). -/

namespace Sys2Proof.Machine

/-- What happens at an instruction boundary (R315, R319). -/
inductive Event where
  /-- A reset (R360). -/
  | reset
  /-- The mode bits are illegal: nothing but a reset happens (R21, U6). -/
  | stuck
  /-- An FIQ is taken (R316). -/
  | fiq
  /-- An IRQ is taken (R317). -/
  | irq
  /-- The fetch of the instruction was aborted (R312). -/
  | prefetchAbort
  /-- The instruction is executed. -/
  | run (i : Instr)
  /-- The fetch reads a byte that holds no value (D11). -/
  | fault (f : Fault)
  /-- The fetched bytes have no meaning in the model (R84, R281, R282). -/
  | refuse (r : Refusal)
deriving DecidableEq, Repr

/-- The code at the PC: a halfword in THUMB state, a word in ARM state, in the memory's byte order (R65, R100). -/
def State.fetchCode (s : State) : Option Code :=
  if s.thumb then (s.readHalf s.pc).map Code.half else (s.readWord s.pc).map Code.word

/-- The size of the fetch (R70). -/
def State.fetchSize (s : State) : Size := if s.thumb then .half else .word

/-- Whether a byte of the instruction at the PC is one the program has stored to (R84, D4, log 7). -/
def State.fetchStored (s : State) : Bool :=
  s.stored.contains s.pc.toNat || s.stored.contains (s.pc + 1#32).toNat ||
    (!s.thumb && (s.stored.contains (s.pc + 2#32).toNat || s.stored.contains (s.pc + 3#32).toNat))

/-- The refusal a rejected code gets. -/
def refusalOf : DecodeError → Refusal
  | .tooFewBytes => .shortFetch
  | .armReservedCondition w => .armReservedCondition w
  | .armOutsideSubset w => .armOutsideSubset w

/-- The instruction at the PC, or why there is none: an aborted fetch first (R312), then a fetch from a device, then a byte that
holds no value (D11), then a byte the program has stored to (D4), then the decoding. That the fault of D11 comes before the
refusal of D4, where an instruction has bytes of both kinds, is the model's choice: the spec gives no order (log 36). -/
def State.fetchInstr (s : State) : Event :=
  if s.aborts .fetch s.fetchSize s.pc then .prefetchAbort
  else if s.onDevice s.fetchSize s.pc then .refuse (.deviceFetch s.pc)
  else match s.fetchCode with
    | none => .fault (.unwritten s.pc)
    | some c =>
      if s.fetchStored then .refuse (.storedText s.pc)
      else match decodeCode c with
        | .ok i => .run i
        | .error e => .refuse (refusalOf e)

/-- The event at this boundary but for a reset (R319): in a legal mode FIQ, then IRQ, then the instruction. -/
def State.workEvent (s : State) : Event :=
  if s.mode = none then .stuck
  else if s.lines.fiq && !s.fiqMasked then .fiq
  else if s.lines.irq && !s.irqMasked then .irq
  else s.fetchInstr

/-- The event at this boundary, in the order of R319: reset before all. -/
def State.nextEvent (s : State) : Event := if s.lines.reset then .reset else s.workEvent

/-- The memory map with RAM at an address, unless RAM or ROM stands there. -/
def State.mapFetchable (s : State) (a : Word) : List Region :=
  if s.kindAt a = some .ram ∨ s.kindAt a = some .rom then s.memoryMap else { lo := a, hi := a, kind := .ram } :: s.memoryMap

/-- Some bytes laid into memory by the host at an address, not by the program: `stored` forgets them, and the memory map has
memory there. -/
def State.placeBytes (s : State) : List Byte → Word → State
  | [], _ => s
  | b :: bs, a =>
    State.placeBytes { s with
      mem := writeCell s.mem a.toNat b
      stored := removeAddr s.stored a.toNat
      memoryMap := s.mapFetchable a } bs (a + 1#32)

/-- An abort rule that lets fetches through. -/
def AbortRule.sparingFetch (r : AbortRule) : AbortRule := { r with onFetch := false }

/-- The input lines with no reset, no interrupt request and no abort of a fetch. -/
def Lines.admitFetch (l : Lines) : Lines :=
  { l with reset := false, fiq := false, irq := false, aborts := l.aborts.map AbortRule.sparingFetch }

/-- The bytes of a table word as memory holds them, the bits above it zero up to four bytes. -/
def tableBytes (big : Bool) (nbits w : Nat) : List Byte :=
  if tableIsThumb nbits then (codeOfTable nbits w).bytes big ++ [0#8, 0#8] else (codeOfTable nbits w).bytes big

/-- The state made ready to run a table word as its next instruction: the word at the PC, T for the word's state, and the
lines letting the fetch through (log 30). -/
def State.placeTableWord (s : State) (nbits w : Nat) : State :=
  let t := s.setT (tableIsThumb nbits)
  State.placeBytes { t with lines := s.lines.admitFetch } (tableBytes s.bigend nbits w) s.pc

end Sys2Proof.Machine
end

