-- ==== Sys2Proof/Machine/Work.lean ====
section
/-! DEFINITION. What each event of an instruction boundary does (R305, R306, R312, R315, R360, R361), and the output nEXEC
(R282). -/

namespace Sys2Proof.Machine

/-- What an event does to the state. The link values of FIQ, IRQ and prefetch abort are the address of the instruction not
executed + 4 (R306). A stuck machine keeps everything (U6). -/
def State.work (s : State) : Event → Result
  | .reset => .next s.takeReset
  | .stuck => .next s
  | .fiq => .next (s.takeException .fiq (s.pc + 4#32))
  | .irq => .next (s.takeException .irq (s.pc + 4#32))
  | .prefetchAbort => .next (s.takeException .prefetchAbort (s.pc + 4#32))
  | .run i => exec i s
  | .fault f => .fault f
  | .refuse r => .refused r

/-- The next state of an answer, if it has one. -/
def nextState? : Result → Option State
  | .next t => some t
  | .fault _ => none
  | .refused _ => none

/-- The state in which a reset at this boundary finds the machine (R361): where nRESET has just gone LOW the work of this
boundary is abandoned; while it stays LOW the processor executes nothing. -/
def State.interrupted (s : State) : State :=
  if s.resetting then s.midBus else s.midBus.abandon (nextState? (s.midBus.work s.workEvent))

/-- The condition an instruction is executed under, if it has one (R42, R255, R282). -/
def condOf : Instr → Option (BitVec 4)
  | .beq _ => some 0x0#4
  | .bne _ => some 0x1#4
  | .bcs _ => some 0x2#4
  | .bcc _ => some 0x3#4
  | .bmi _ => some 0x4#4
  | .bpl _ => some 0x5#4
  | .bvs _ => some 0x6#4
  | .bvc _ => some 0x7#4
  | .bhi _ => some 0x8#4
  | .bls _ => some 0x9#4
  | .bge _ => some 0xA#4
  | .blt _ => some 0xB#4
  | .bgt _ => some 0xC#4
  | .ble _ => some 0xD#4
  | .armBx cond _ => some cond
  | .armMovsPcLr cond => some cond
  | .armSubsPcLr4 cond => some cond
  | .armSubsPcLr8 cond => some cond
  | .armMovPcLr cond => some cond
  | .armB cond _ => some cond
  | .armBl cond _ => some cond
  | .armSwi cond _ => some cond
  | _ => none

/-- The output nEXEC while an instruction is in the execution unit (R282): true, for HIGH, where the instruction "is not being
executed", its condition having failed (log 38). -/
def State.pinNEXEC (s : State) (i : Instr) : Bool :=
  match condOf i with
  | some cond => !s.condPassed cond
  | none => false

end Sys2Proof.Machine
end

