-- ==== Sys2Proof/Machine/Step.lean ====
section
/-! DEFINITION. One step of the machine: one instruction, or one exception entry between instructions (R12, R315, R319;
log 29). After the fetch, and at the end of the step, the other bus masters write (R80, R334); then the input lines take the
host's next levels. -/

namespace Sys2Proof.Machine

/-- An outcome with its next state changed. -/
def mapNext (f : State → State) : Result → Result
  | .next s => .next (f s)
  | .fault r => .fault r
  | .refused r => .refused r

/-- One step. A reset abandons what this boundary would do (R361); every other event is worked. -/
def step (s : State) : Host.Outcome State Fault Refusal :=
  if s.lines.reset then .next s.interrupted.takeReset.endStep else mapNext State.endStep (s.midBus.work s.workEvent)

/-- The state with a table word stored where the next step fetches its instruction. -/
def State.withFetchWord (s : State) (nbits w : Nat) : State := s.placeTableWord nbits w

end Sys2Proof.Machine
end

