-- ==== Sys2Proof/Machine/Run.lean ====
section
/-! DEFINITION. Runs of the machine and where they end (R367, 70_reset_and_hazards.md; D30; log 39). -/

namespace Sys2Proof.Machine

/-- The instruction at the PC is a branch to itself and no interrupt is taken at this boundary (R367): it is run, and it leaves
the whole machine as it is. -/
def State.idle (s : State) : Bool :=
  match s.nextEvent with
  | .run i => decide (nextState? (exec i s.midBus) = some s.midBus)
  | _ => false

/-- The machine is idle at this boundary and at the next `n` boundaries, as the host will have them. -/
def State.idleFor : Nat → State → Bool
  | 0, s => s.idle
  | n + 1, s => s.idle && State.idleFor n s.midBus.endStep

/-- How many boundaries it takes until the host has no more inputs to give. -/
def State.horizon (s : State) : Nat := s.upcoming.length + s.masters.length

/-- The run has ended (R367): the machine is idle now and at every later boundary, no later line or write of another master
takes it out of the loop. Where a later interrupt is taken the loop is the idle loop, and the run has not ended. -/
def State.ended (s : State) : Bool := State.idleFor (s.horizon + 1) s

/-- What a run comes to. -/
inductive RunEnd where
  /-- The run ended in this state, its end state (R367). -/
  | ended (s : State)
  /-- The steps allowed are used up. -/
  | unfinished (s : State)
  /-- A step faulted. -/
  | fault (f : Fault)
  /-- A step was refused. -/
  | refused (r : Refusal)
deriving DecidableEq, Repr

/-- A run of at most `n` steps (R367, D30). -/
def State.run : Nat → State → RunEnd
  | 0, s => if s.ended then .ended s else .unfinished s
  | n + 1, s =>
    if s.ended then .ended s
    else
      match step s with
      | .next t => State.run n t
      | .fault f => .fault f
      | .refused r => .refused r

end Sys2Proof.Machine
end

