-- ==== Sys2Proof/Safety.lean ====
section
/-! DEFINITION. The terms the claims use: the invariant of the machine, what a change of state keeps (its frame), and the
outcomes an instruction can have. Every predicate is said through what a reader of the machine sees: a register, a flag, a
byte of memory. -/

namespace Sys2Proof.Machine

/-! ### The invariant -/

/-- What every state of a run satisfies: memory in its canonical form, the record of stored bytes rising and about bytes
that hold a value, and the PC aligned for the state it is in (R28, 10_state.md). -/
structure State.Inv (s : State) : Prop where
  memory : Memory.wf s.mem
  storedRising : s.stored.Pairwise (· < ·)
  storedHeld : ∀ n ∈ s.stored, ∃ a : Word, a.toNat = n ∧ (s.readByte a).isSome
  pcThumb : s.thumb = true → s.pc.getLsbD 0 = false
  pcArm : s.thumb = false → s.pc.getLsbD 0 = false ∧ s.pc.getLsbD 1 = false

/-- No exception arises at this boundary: no reset, a legal mode, no interrupt that its disable bit lets through, no abort of
the fetch (R315, R319), and no fetch from a device. -/
structure State.Undisturbed (s : State) : Prop where
  noReset : s.lines.reset = false
  legal : s.mode ≠ none
  noFiq : s.lines.fiq = false ∨ s.fiqMasked = true
  noIrq : s.lines.irq = false ∨ s.irqMasked = true
  noAbort : s.aborts .fetch s.fetchSize s.pc = false
  noDevice : s.onDevice s.fetchSize s.pc = false

/-! ### Frames -/

/-- The five SPSRs are kept. -/
structure State.SameSaved (s t : State) : Prop where
  fiq : t.spsrFiq = s.spsrFiq
  irq : t.spsrIrq = s.spsrIrq
  svc : t.spsrSvc = s.spsrSvc
  abt : t.spsrAbt = s.spsrAbt
  und : t.spsrUnd = s.spsrUnd

/-- The control bits but T, and the reserved bits of the CPSR, are kept (R39, R43). -/
structure State.SameControl (s t : State) : Prop where
  i : t.irqMasked = s.irqMasked
  f : t.fiqMasked = s.fiqMasked
  m : t.modeBits = s.modeBits
  reserved : t.cpsr.extractLsb' 8 20 = s.cpsr.extractLsb' 8 20

/-- The four condition flags are kept. -/
structure State.SameFlags (s t : State) : Prop where
  n : t.flagN = s.flagN
  z : t.flagZ = s.flagZ
  c : t.flagC = s.flagC
  v : t.flagV = s.flagV

/-- The input lines and pins, the memory map, and what the other masters will write are kept. -/
structure State.SameInputs (s t : State) : Prop where
  lines : t.lines = s.lines
  upcoming : t.upcoming = s.upcoming
  masters : t.masters = s.masters
  resetting : t.resetting = s.resetting
  memoryMap : t.memoryMap = s.memoryMap
  bigend : t.bigend = s.bigend
  unallocTraps : t.unallocTraps = s.unallocTraps

/-- The pins and the memory map are kept, the lines take the host's next levels, or hold where it gives none (R315), the other
masters' turn is over (R334), and the step is remembered as one of a reset or not (R361). -/
structure State.NextInputs (s t : State) : Prop where
  lines : t.lines = s.upcoming.headD s.lines
  upcoming : t.upcoming = s.upcoming.tail
  masters : t.masters = s.masters.tail
  resetting : t.resetting = s.lines.reset
  memoryMap : t.memoryMap = s.memoryMap
  bigend : t.bigend = s.bigend
  unallocTraps : t.unallocTraps = s.unallocTraps

/-- Every byte of memory is kept, and the program has stored to no further byte. -/
structure State.SameMemory (s t : State) : Prop where
  bytes : ∀ a, t.readByte a = s.readByte a
  stored : t.stored = s.stored

/-- What a byte at an address holds after some writes of other masters, `old` being what it held before them (R334). -/
def afterWrites (ws : List BusWrite) (a : Word) (old : Option Byte) : Option Byte :=
  ws.foldl (fun b w => if w.addr = a then some w.byte else b) old

/-- Every byte of memory is kept but those the other masters write in this step, and the program has stored to no further byte
(R334). -/
structure State.MastersMemory (s t : State) : Prop where
  bytes : ∀ a, t.readByte a = afterWrites (s.turn.between ++ s.turn.after) a (s.readByte a)
  stored : t.stored = s.stored

/-- Nothing is changed but the input lines and what the writes `ws` of other masters change (R334). -/
structure State.OnlyBus (s t : State) (ws : List BusWrite) : Prop where
  pc : t.pc = s.pc
  cpsr : t.cpsr = s.cpsr
  regs : t.regs = s.regs
  saved : s.SameSaved t
  bytes : ∀ a, t.readByte a = afterWrites ws a (s.readByte a)
  stored : t.stored = s.stored
  draws : t.draws = s.draws

/-- Every byte of memory is kept but the `n` bytes from `start` on, and just those are recorded as stored to. -/
structure State.SameMemoryBut (s t : State) (start : Word) (n : Nat) : Prop where
  bytes : ∀ a, (∀ k, k < n → a ≠ start + BitVec.ofNat 32 k) → t.readByte a = s.readByte a
  stored : ∀ c, c ∈ t.stored ↔ c ∈ s.stored ∨ ∃ k, k < n ∧ c = (start + BitVec.ofNat 32 k).toNat

/-- Every physical register but those named is kept. -/
def State.SameRegsBut (s t : State) (written : List PhysReg) : Prop :=
  ∀ p, p ∉ written → t.getPhys p = s.getPhys p

/-- The physical registers that some numbers name in the mode of `s` (R23); 15 names none. -/
def State.named (s : State) (is : List RegNum) : List PhysReg := is.filterMap (phys s.mode)

/-- Everything is kept but the physical registers named, the flags, T, the PC and memory. -/
structure State.KeepsBut (s t : State) (written : List PhysReg) : Prop where
  regs : s.SameRegsBut t written
  saved : s.SameSaved t
  control : s.SameControl t
  inputs : s.SameInputs t
  draws : t.draws = s.draws

/-! ### Outcomes of an instruction -/

/-- Whether an exact signed value falls outside the 32-bit signed numbers (V of R36). -/
def overflows (x : Int) : Bool := decide (x < -2 ^ 31 ∨ 2 ^ 31 ≤ x)

/-- The four flags: N and Z of the result `r`, and the C and V given. -/
structure State.FlagsOf (t : State) (r : Word) (c v : Bool) : Prop where
  n : t.flagN = decide (r.toInt < 0)
  z : t.flagZ = decide (r = 0#32)
  c : t.flagC = c
  v : t.flagV = v

/-- A THUMB instruction's result `r` in the Lo register `rd` with the flags given: only that register, the flags and the PC
change. -/
structure State.LoResult (s t : State) (rd : BitVec 3) (r : Word) (c v : Bool) : Prop where
  value : t.readReg (loReg rd) = r
  flags : t.FlagsOf r c v
  state : t.thumb = s.thumb
  pc : t.pc = s.pc + 2#32
  keeps : s.KeepsBut t (s.named [loReg rd])
  memory : s.SameMemory t

/-- A THUMB comparison of result `r`: only the flags and the PC change. -/
structure State.FlagResult (s t : State) (r : Word) (c v : Bool) : Prop where
  flags : t.FlagsOf r c v
  state : t.thumb = s.thumb
  pc : t.pc = s.pc + 2#32
  keeps : s.KeepsBut t []
  memory : s.SameMemory t

/-- A value `r` in the register of number `d`, no flag: only that register and the PC change. -/
structure State.PlainResult (s t : State) (d : RegNum) (r : Word) : Prop where
  value : t.readReg d = r
  flags : s.SameFlags t
  state : t.thumb = s.thumb
  pc : t.pc = s.pc + 2#32
  keeps : s.KeepsBut t (s.named [d])
  memory : s.SameMemory t

/-- A transfer of control to `target` in the state that `thumb` says: only the PC, T and the registers named change. -/
structure State.Jumped (s t : State) (target : Word) (thumb : Bool) (written : List PhysReg) : Prop where
  pc : t.pc = target
  state : t.thumb = thumb
  flags : s.SameFlags t
  keeps : s.KeepsBut t written
  memory : s.SameMemory t

/-- A store of `n` bytes at `a`: only those bytes and the PC change. -/
structure State.Stored (s t : State) (a : Word) (n : Nat) : Prop where
  memory : s.SameMemoryBut t a n
  flags : s.SameFlags t
  state : t.thumb = s.thumb
  pc : t.pc = s.pc + 2#32
  keeps : s.KeepsBut t []

/-- The entry of exception `k` with return value `link` (R305): R14 and SPSR of the mode entered, the control bits and the PC,
nothing else but the further registers named and what the statement says of memory and the input lines. -/
structure State.Entered (s t : State) (k : Exc) (link : Word) (also : List PhysReg) : Prop where
  link : t.getPhys (.r14 k.mode.bank) = link
  saved : t.spsrOf k.mode = some s.cpsr
  mode : t.modeBits = k.mode.bits
  arm : t.thumb = false
  i : t.irqMasked = true
  f : t.fiqMasked = (decide (k = .reset ∨ k = .fiq) || s.fiqMasked)
  flags : s.SameFlags t
  reserved : t.cpsr.extractLsb' 8 20 = s.cpsr.extractLsb' 8 20
  pc : t.pc = k.vector
  regs : s.SameRegsBut t (.r14 k.mode.bank :: also)
  spsrs : ∀ m, m ≠ k.mode → t.spsrOf m = s.spsrOf m
  draws : t.draws = s.draws

/-- The state after a return from exception `k` to `target`: the CPSR as before the exception, and every register but R14 of
the mode of `k` and the further registers named, and every SPSR but that of the mode of `k`, as before it (R320). -/
structure State.Resumed (s u : State) (k : Exc) (target : Word) (also : List PhysReg) : Prop where
  pc : u.pc = target
  cpsr : u.cpsr = s.cpsr
  regs : s.SameRegsBut u (.r14 k.mode.bank :: also)
  spsrs : ∀ m, m ≠ k.mode → u.spsrOf m = s.spsrOf m

/-- The state after a reset that found the machine in `s`, the work at this boundary leading to `u` but for the reset: every
register but R14_svc, every SPSR but SPSR_svc, every flag and reserved bit, and every byte of memory, that the work was not
about to change, is kept (R360; R361 and U18 for the rest). -/
structure State.Abandoned (s u t : State) : Prop where
  regs : ∀ p, p ≠ .r14 .svc → u.getPhys p = s.getPhys p → t.getPhys p = s.getPhys p
  spsrs : ∀ m, m ≠ .svc → u.spsrOf m = s.spsrOf m → t.spsrOf m = s.spsrOf m
  bits : ∀ j, 8 ≤ j → u.cpsr.getLsbD j = s.cpsr.getLsbD j → t.cpsr.getLsbD j = s.cpsr.getLsbD j
  bytes : ∀ a, u.readByte a = s.midBus.readByte a → t.readByte a = afterWrites s.turn.after a (s.midBus.readByte a)
  stored : t.stored = u.stored

/-- The PC is aligned for the state the machine is in (R28). -/
structure State.PcAligned (s : State) : Prop where
  thumb : s.thumb = true → s.pc.getLsbD 0 = false
  arm : s.thumb = false → s.pc.getLsbD 0 = false ∧ s.pc.getLsbD 1 = false

/-! ### The forms of a single transfer -/

/-- The single loads: the instruction, its Rd, the size and the address of its access, and how it extends what it reads
(R201, R204, R205, R207 to R209, R211, R213, R215, R217). -/
inductive State.LoadForm (s : State) : Instr → BitVec 3 → Size → Word → (Word → Word) → Prop where
  | ldrPc (rd : BitVec 3) (imm : BitVec 8) :
    s.LoadForm (.ldrPc rd imm) rd .word (((s.pc + 4#32) &&& 0xFFFFFFFC#32) + BitVec.ofNat 32 (4 * imm.toNat)) id
  | ldrReg (rd rb ro : BitVec 3) :
    s.LoadForm (.ldrReg rd rb ro) rd .word (s.readReg (loReg rb) + s.readReg (loReg ro)) id
  | ldrImm (rd rb : BitVec 3) (off : BitVec 5) :
    s.LoadForm (.ldrImm rd rb off) rd .word (s.readReg (loReg rb) + BitVec.ofNat 32 (4 * off.toNat)) id
  | ldrSp (rd : BitVec 3) (imm : BitVec 8) :
    s.LoadForm (.ldrSp rd imm) rd .word (s.readReg spReg + BitVec.ofNat 32 (4 * imm.toNat)) id
  | ldrbReg (rd rb ro : BitVec 3) :
    s.LoadForm (.ldrbReg rd rb ro) rd .byte (s.readReg (loReg rb) + s.readReg (loReg ro)) id
  | ldrbImm (rd rb : BitVec 3) (off : BitVec 5) :
    s.LoadForm (.ldrbImm rd rb off) rd .byte (s.readReg (loReg rb) + BitVec.ofNat 32 off.toNat) id
  | ldsbReg (rd rb ro : BitVec 3) :
    s.LoadForm (.ldsbReg rd rb ro) rd .byte (s.readReg (loReg rb) + s.readReg (loReg ro))
      (fun v => (v.setWidth 8).signExtend 32)
  | ldrhReg (rd rb ro : BitVec 3) :
    s.LoadForm (.ldrhReg rd rb ro) rd .half (s.readReg (loReg rb) + s.readReg (loReg ro)) id
  | ldrhImm (rd rb : BitVec 3) (off : BitVec 5) :
    s.LoadForm (.ldrhImm rd rb off) rd .half (s.readReg (loReg rb) + BitVec.ofNat 32 (2 * off.toNat)) id
  | ldshReg (rd rb ro : BitVec 3) :
    s.LoadForm (.ldshReg rd rb ro) rd .half (s.readReg (loReg rb) + s.readReg (loReg ro))
      (fun v => (v.setWidth 16).signExtend 32)

/-- The single stores: the instruction, its Rd, the size and the address of its access (R202, R203, R206, R210, R212, R214,
R216). -/
inductive State.StoreForm (s : State) : Instr → BitVec 3 → Size → Word → Prop where
  | strReg (rd rb ro : BitVec 3) :
    s.StoreForm (.strReg rd rb ro) rd .word (s.readReg (loReg rb) + s.readReg (loReg ro))
  | strImm (rd rb : BitVec 3) (off : BitVec 5) :
    s.StoreForm (.strImm rd rb off) rd .word (s.readReg (loReg rb) + BitVec.ofNat 32 (4 * off.toNat))
  | strSp (rd : BitVec 3) (imm : BitVec 8) :
    s.StoreForm (.strSp rd imm) rd .word (s.readReg spReg + BitVec.ofNat 32 (4 * imm.toNat))
  | strbReg (rd rb ro : BitVec 3) :
    s.StoreForm (.strbReg rd rb ro) rd .byte (s.readReg (loReg rb) + s.readReg (loReg ro))
  | strbImm (rd rb : BitVec 3) (off : BitVec 5) :
    s.StoreForm (.strbImm rd rb off) rd .byte (s.readReg (loReg rb) + BitVec.ofNat 32 off.toNat)
  | strhReg (rd rb ro : BitVec 3) :
    s.StoreForm (.strhReg rd rb ro) rd .half (s.readReg (loReg rb) + s.readReg (loReg ro))
  | strhImm (rd rb : BitVec 3) (off : BitVec 5) :
    s.StoreForm (.strhImm rd rb off) rd .half (s.readReg (loReg rb) + BitVec.ofNat 32 (2 * off.toNat))

/-! ### The forms of a block transfer -/

/-- The address of the `k`-th word of a block transfer (R241). -/
def wordAt (start : Word) (k : Nat) : Word := start + BitVec.ofNat 32 (4 * k)

/-- The block stores: the instruction, the registers it stores, the lowest address, the base register and its final value
(R245, R248). STMIA with the base in the list is none of them (R250). -/
inductive State.BlockStoreForm (s : State) : Instr → List RegNum → Word → RegNum → Word → Prop where
  | push (rlist : BitVec 8) :
    s.BlockStoreForm (.push rlist) (regList rlist) (s.readReg spReg - BitVec.ofNat 32 (4 * (regList rlist).length)) spReg
      (s.readReg spReg - BitVec.ofNat 32 (4 * (regList rlist).length))
  | pushLr (rlist : BitVec 8) :
    s.BlockStoreForm (.pushLr rlist) (regList rlist ++ [lrReg])
      (s.readReg spReg - BitVec.ofNat 32 (4 * ((regList rlist).length + 1))) spReg
      (s.readReg spReg - BitVec.ofNat 32 (4 * ((regList rlist).length + 1)))
  | stmia (rb : BitVec 3) (rlist : BitVec 8) (notIn : rlist.getLsbD rb.toNat = false) :
    s.BlockStoreForm (.stmia rb rlist) (regList rlist) (s.readReg (loReg rb)) (loReg rb)
      (s.readReg (loReg rb) + BitVec.ofNat 32 (4 * (regList rlist).length))

/-- The block loads: the instruction, the registers it loads, the lowest address, the base register and its final value
(R246, R249). LDMIA with the base in the list is none of them (R250). -/
inductive State.BlockLoadForm (s : State) : Instr → List RegNum → Word → RegNum → Word → Prop where
  | pop (rlist : BitVec 8) :
    s.BlockLoadForm (.pop rlist) (regList rlist) (s.readReg spReg) spReg
      (s.readReg spReg + BitVec.ofNat 32 (4 * (regList rlist).length))
  | popPc (rlist : BitVec 8) :
    s.BlockLoadForm (.popPc rlist) (regList rlist ++ [pcReg]) (s.readReg spReg) spReg
      (s.readReg spReg + BitVec.ofNat 32 (4 * ((regList rlist).length + 1)))
  | ldmia (rb : BitVec 3) (rlist : BitVec 8) (notIn : rlist.getLsbD rb.toNat = false) :
    s.BlockLoadForm (.ldmia rb rlist) (regList rlist) (s.readReg (loReg rb)) (loReg rb)
      (s.readReg (loReg rb) + BitVec.ofNat 32 (4 * (regList rlist).length))

/-- An instruction of which a data access is aborted (R244, R313): a single load or store, a block store, or a block load whose
accesses before the first one aborted are answered. -/
inductive State.DataAborts (s : State) : Instr → Prop where
  | load {i : Instr} {rd : BitVec 3} {z : Size} {a : Word} {f : Word → Word} (form : s.LoadForm i rd z a f)
    (isAligned : aligned z a = true) (aborted : s.aborts .read z a = true) : s.DataAborts i
  | store {i : Instr} {rd : BitVec 3} {z : Size} {a : Word} (form : s.StoreForm i rd z a)
    (isAligned : aligned z a = true) (aborted : s.aborts .write z a = true) : s.DataAborts i
  | blockStore {i : Instr} {regs : List RegNum} {start : Word} {base : RegNum} {final : Word} {k : Nat}
    (form : s.BlockStoreForm i regs start base final) (isAligned : aligned .word start = true) (inList : k < regs.length)
    (aborted : s.aborts .write .word (wordAt start k) = true) : s.DataAborts i
  | blockLoad {i : Instr} {regs : List RegNum} {start : Word} {base : RegNum} {final : Word} {k : Nat}
    (form : s.BlockLoadForm i regs start base final) (isAligned : aligned .word start = true) (inList : k < regs.length)
    (before : ∀ j, j < k → s.aborts .read .word (wordAt start j) = false ∧
      (s.onDevice .word (wordAt start j) = true ∨ (s.readWord (wordAt start j)).isSome))
    (aborted : s.aborts .read .word (wordAt start k) = true) : s.DataAborts i

/-! ### Groups of instructions -/

/-- The twelve patterns of unallocated halfwords (R123). -/
inductive Unallocated : Instr → Prop where
  | b1 (x : BitVec 8) : Unallocated (.unallocB1 x)
  | b2 (x : BitVec 8) : Unallocated (.unallocB2 x)
  | b3 (x : BitVec 8) : Unallocated (.unallocB3 x)
  | b6 (x : BitVec 8) : Unallocated (.unallocB6 x)
  | b7 (x : BitVec 8) : Unallocated (.unallocB7 x)
  | b8 (x : BitVec 8) : Unallocated (.unallocB8 x)
  | b9 (x : BitVec 8) : Unallocated (.unallocB9 x)
  | bA (x : BitVec 8) : Unallocated (.unallocBA x)
  | bB (x : BitVec 8) : Unallocated (.unallocBB x)
  | bE (x : BitVec 8) : Unallocated (.unallocBE x)
  | bF (x : BitVec 8) : Unallocated (.unallocBF x)
  | e8 (x : BitVec 11) : Unallocated (.unallocE8 x)

/-- The three instructions that return from an exception, with the condition and what each takes from R14 (R284 to R286). -/
inductive ReturnForm : Instr → BitVec 4 → Word → Prop where
  | movs (cond : BitVec 4) : ReturnForm (.armMovsPcLr cond) cond 0#32
  | subs4 (cond : BitVec 4) : ReturnForm (.armSubsPcLr4 cond) cond 4#32
  | subs8 (cond : BitVec 4) : ReturnForm (.armSubsPcLr8 cond) cond 8#32

end Sys2Proof.Machine
end

