-- ==== Sys2Proof/Certificates/Slice0/Obligations.lean ====
section
/-! DEFINITION. The statements for the provers. Each docstring names the rules of spec/ the statement rests on, and says
where a clause is the spec's own inference or decision and not a sentence of its sources. -/

open Sys2Proof Sys2Proof.Machine

/-! ### Encoding -/

/-- A few words of the sources' worked examples, and two ARM words, decode to the instructions they stand for
(95_test_vectors.md section 1.1; the ARM words GK13, log 19). -/
def Obligations.ExampleWordsDecode : Prop :=
  decodeThumb 0xE7FE#16 = .b 0x7FE#11 ∧
  decodeThumb 0x0EEA#16 = .lsrImm 2#3 5#3 27#5 ∧
  decodeThumb 0x1918#16 = .addReg 0#3 3#3 4#3 ∧
  decodeThumb 0x46F7#16 = .movHdHs 7#3 6#3 ∧
  decodeThumb 0x4BD3#16 = .ldrPc 3#3 211#8 ∧
  decodeThumb 0xB09A#16 = .addSpNeg 26#7 ∧
  decodeThumb 0xBD44#16 = .popPc 0x44#8 ∧
  decodeThumb 0xDF12#16 = .swi 18#8 ∧
  decodeArm 0xE12FFF10#32 = .ok (.armBx 0xE#4 0#4) ∧
  decodeArm 0xE25EF004#32 = .ok (.armSubsPcLr4 0xE#4)

/-- Decoding the encoding of a well-formed instruction gives it back, every operand at every value. -/
def Obligations.DecodeOfEncode : Prop :=
  ∀ i : Instr, i.wf = true → decodeCode (encode i) = .ok i

/-- Every THUMB halfword is the encoding of the instruction it decodes to, and so is every ARM word that decodes, which is
well formed: no bit of a word is dropped (R121, a derived rule; R281 and R282 for the ARM words). -/
def Obligations.EncodeOfDecode : Prop :=
  (∀ w : Half, encode (decodeThumb w) = .half w) ∧
  ∀ (w : Word) (i : Instr), decodeArm w = .ok i → encode i = .word w ∧ i.wf = true ∧ i.isThumb = false

/-- The ARM words that decode are those of the subset, by match and mask, with a condition other than 1111; every other word
is rejected (R281, R282; the encodings are GK13, log 19). -/
def Obligations.ArmSubset : Prop :=
  ∀ w : Word, (∃ i, decodeArm w = .ok i) ↔
    w >>> 28 ≠ 0xF#32 ∧
      (w &&& 0x0FFFFFF0#32 = 0x012FFF10#32 ∨ w &&& 0x0FFFFFFF#32 = 0x01B0F00E#32 ∨
        w &&& 0x0FFFFFFF#32 = 0x025EF004#32 ∨ w &&& 0x0FFFFFFF#32 = 0x025EF008#32 ∨
        w &&& 0x0FFFFFFF#32 = 0x01A0F00E#32 ∨ w &&& 0x0F000000#32 = 0x0A000000#32 ∨
        w &&& 0x0F000000#32 = 0x0B000000#32 ∨ w &&& 0x0F000000#32 = 0x0F000000#32)

/-! ### Reset -/

/-- After reset the PC is 0 and the machine is in Supervisor mode and ARM state with both interrupts disabled (R50). The
fields R50 leaves unspecified are not mentioned: their values are the model's choice (logs 3 to 5). -/
def Obligations.ResetValues : Prop :=
  State.reset.pc = 0x00000000#32 ∧ State.reset.modeBits = 0b10011#5 ∧ State.reset.irqMasked = true ∧
    State.reset.fiqMasked = true ∧ State.reset.thumb = false

/-- A reset takes effect at every boundary, whatever the state, even an illegal mode: Supervisor mode, I and F set, T
clear, the PC 0; R14_svc and SPSR_svc are not mentioned. While nRESET stays LOW everything else is kept (R360's model step);
where it has just gone LOW, everything else that the work of this boundary was not about to change is kept, and nothing is
said of the rest (R361, U18). That a reset is taken at a boundary, and what counts as about to be changed, is the model's
choice (logs 12 and 37). -/
def Obligations.ResetTakesEffect : Prop :=
  ∀ s : State, s.lines.reset = true → ∃ t, step s = .next t ∧
    t.pc = 0x00000000#32 ∧ t.modeBits = 0b10011#5 ∧ t.irqMasked = true ∧ t.fiqMasked = true ∧ t.thumb = false ∧ s.NextInputs t ∧
    (s.resetting = true → s.SameFlags t ∧ t.cpsr.extractLsb' 8 20 = s.cpsr.extractLsb' 8 20 ∧
      s.SameRegsBut t [.r14 .svc] ∧ (∀ m, m ≠ .svc → t.spsrOf m = s.spsrOf m) ∧ s.MastersMemory t) ∧
    ∀ u, s.resetting = false → s.midBus.work s.workEvent = .next u → s.Abandoned u t

/-! ### The invariant -/

/-- The state after reset satisfies the invariant. -/
def Obligations.ResetInvariant : Prop := State.reset.Inv

/-- Every step keeps the invariant: memory stays canonical, the record of stored bytes stays a rising list of bytes that hold
a value, and the PC stays aligned for the state (R28; that a write to the PC drops its low bits is GK11 and D25, log 24). The
record of stored bytes is the model's (log 7). -/
def Obligations.StepKeepsInvariant : Prop :=
  ∀ s t : State, s.Inv → step s = .next t → t.Inv

/-! ### The step -/

/-- Where no exception arises, the bytes at the PC, none of them stored by the program, decode to an instruction: it is well
formed, it is of the state the machine is in, and the step is that instruction's meaning, on memory as the other masters have
left it after the fetch; then the other masters' later writes are done and the input lines take the host's next levels (R100,
R315, R334; that the other masters write at these two places is log 31). -/
def Obligations.StepRunsDecoded : Prop :=
  ∀ (s : State) (i : Instr) (bytes : List Byte), s.Undisturbed →
    bytes.length = (if s.thumb then 2 else 4) →
    (∀ k (h : k < bytes.length), s.readByte (s.pc + BitVec.ofNat 32 k) = some bytes[k]) →
    (∀ k, k < bytes.length → (s.pc + BitVec.ofNat 32 k).toNat ∉ s.stored) →
    decodeBytes s.thumb s.bigend bytes = .ok i →
    i.wf = true ∧ i.isThumb = s.thumb ∧ step s = mapNext State.endStep (exec i s.midBus) ∧
      s.OnlyBus s.midBus s.turn.between ∧ s.SameInputs s.midBus ∧
      ∀ u : State, u.OnlyBus u.endStep u.turn.after ∧ u.NextInputs u.endStep

/-- An instruction of which the program has stored a byte, all its bytes holding a value, is refused (R84 as decision D4 has it,
logs 7 and 36); and so is a fetch from a device, whose answers no source gives (R333, log 32). -/
def Obligations.StoredTextRefused : Prop :=
  (∀ (s : State) (k : Nat), s.Undisturbed → k < (if s.thumb then 2 else 4) →
    (∀ j, j < (if s.thumb then 2 else 4) → (s.readByte (s.pc + BitVec.ofNat 32 j)).isSome) →
    (s.pc + BitVec.ofNat 32 k).toNat ∈ s.stored → step s = .refused (.storedText s.pc)) ∧
  ∀ s : State, s.lines.reset = false → s.mode ≠ none → s.lines.fiq = false ∨ s.fiqMasked = true →
    s.lines.irq = false ∨ s.irqMasked = true → s.aborts .fetch s.fetchSize s.pc = false →
    s.onDevice s.fetchSize s.pc = true → step s = .refused (.deviceFetch s.pc)

/-- In an illegal mode a step changes nothing but the input lines, until a reset; other masters may write memory (R21, U6;
decision D17; logs 10 and 31). -/
def Obligations.IllegalModeStuck : Prop :=
  ∀ s : State, s.mode = none → s.lines.reset = false → ∃ t, step s = .next t ∧
    t.pc = s.pc ∧ t.cpsr = s.cpsr ∧ s.SameRegsBut t [] ∧ s.SameSaved t ∧ s.MastersMemory t ∧ s.NextInputs t

/-! ### Registers and modes -/

/-- The register each number names in each mode: R0 to R7 and R8 to R12 in one copy, FIQ's own R8 to R12, R13 and R14 by bank,
System sharing User's, 15 the PC; and the SPSR of each mode, none in User and System (R22). Beside it, the mode bits of the
seven modes, no two alike (R21's table). -/
def Obligations.RegisterBanks : Prop :=
  (∀ (m : Option Mode) (i : Fin 8), phys m ⟨i.val, by omega⟩ = some (.lo i)) ∧
  (∀ (m : Mode) (i : Fin 5), m ≠ .fiq → phys (some m) ⟨8 + i.val, by omega⟩ = some (.mid i)) ∧
  (∀ i : Fin 5, phys (some .fiq) ⟨8 + i.val, by omega⟩ = some (.midFiq i)) ∧
  [(Mode.usr, Bank.usr), (.sys, .usr), (.fiq, .fiq), (.irq, .irq), (.svc, .svc), (.abt, .abt), (.und, .und)].all
    (fun x => phys (some x.1) 13 == some (.r13 x.2) && phys (some x.1) 14 == some (.r14 x.2)) = true ∧
  (∀ m : Option Mode, phys m 15 = none) ∧
  (∀ s : State, s.spsrOf .usr = none ∧ s.spsrOf .sys = none ∧ s.spsrOf .fiq = some s.spsrFiq ∧
    s.spsrOf .irq = some s.spsrIrq ∧ s.spsrOf .svc = some s.spsrSvc ∧ s.spsrOf .abt = some s.spsrAbt ∧
    s.spsrOf .und = some s.spsrUnd) ∧
  [(0b10000#5, Mode.usr), (0b10001#5, .fiq), (0b10010#5, .irq), (0b10011#5, .svc), (0b10111#5, .abt),
    (0b11011#5, .und), (0b11111#5, .sys)].all (fun x => Mode.ofBits x.1 == some x.2 && x.2.bits == x.1) = true

/-- A register number written in one mode is read back in any mode exactly where that mode gives the number the same physical
register; every other register number of every mode reads as before (R23, its last sentence derived there). -/
def Obligations.BankedWrite : Prop :=
  ∀ (s : State) (m : Mode) (i j : RegNum) (v : Word), i ≠ 15 → j ≠ 15 →
    (s.writeReg i v).readReg i = v ∧
    ({ s.writeReg i v with cpsr := putM s.cpsr m.bits }).readReg j =
      if phys (some m) j = phys s.mode i then v else ({ s with cpsr := putM s.cpsr m.bits }).readReg j

/-! ### Memory -/

/-- A word in memory, byte by byte in both formats: big endian has bits 31:24 at the word's address and bits 7:0 three above
(R63); little endian the other way round. -/
def Obligations.WordByteOrder : Prop :=
  ∀ (s : State) (a w : Word) (k : Nat), k < 4 →
    ((s.writeWord a w).readByte (a + BitVec.ofNat 32 k) =
      some (if s.bigend then (w >>> (24 - 8 * k)).setWidth 8 else (w >>> (8 * k)).setWidth 8)) ∧
    (s.readWord a = some w → s.readByte (a + BitVec.ofNat 32 k) =
      some (if s.bigend then (w >>> (24 - 8 * k)).setWidth 8 else (w >>> (8 * k)).setWidth 8))

/-- What a store of 1, 2 or 4 bytes wrote, a load of the same size reads back, and a byte outside it reads as before (R64,
whose halfword lines the spec derives). -/
def Obligations.StoreThenLoad : Prop :=
  ∀ (s : State) (z : Size) (a v : Word),
    (s.writeMem z a v).readMem z a = some (v &&& BitVec.ofNat 32 (2 ^ (8 * z.bytes) - 1)) ∧
    s.SameMemoryBut (s.writeMem z a v) a z.bytes

/-! ### Exceptions -/

/-- The mode and the vector of each exception, and the mode bits (R303, R75, R21); nothing goes to the reserved vector 0x14
(R322). -/
def Obligations.ExceptionTable : Prop :=
  [(Exc.reset, 0x00#32, 0b10011#5), (.undefined, 0x04#32, 0b11011#5), (.swi, 0x08#32, 0b10011#5),
    (.prefetchAbort, 0x0C#32, 0b10111#5), (.dataAbort, 0x10#32, 0b10111#5), (.irq, 0x18#32, 0b10010#5),
    (.fiq, 0x1C#32, 0b10001#5)].all (fun x => x.1.vector == x.2.1 && x.1.mode.bits == x.2.2) = true ∧
  ∀ k : Exc, k.vector ≠ 0x14#32

/-- Taking an exception saves the return value in R14 and the whole CPSR in the SPSR of the mode entered, sets the mode, clears
T, sets I, sets F for reset and FIQ only, puts the PC at the vector and keeps everything else (R305; which disable bits an
entry sets is GK12, log 25). -/
def Obligations.TakeException : Prop :=
  ∀ (s : State) (k : Exc) (link : Word),
    s.Entered (s.takeException k link) k link [] ∧ s.SameMemory (s.takeException k link) ∧
      s.SameInputs (s.takeException k link)

/-- SWI takes the software interrupt with the next instruction's address as the return value, whatever its comment field: in
THUMB state always (R270), in ARM state where its condition passes (R289; encodings GK13). The I bit is GK12 (log 25). -/
def Obligations.SoftwareInterrupt : Prop :=
  ∀ s : State,
    (∀ value : BitVec 8, ∃ t, exec (.swi value) s = .next t ∧
      s.Entered t .swi (s.pc + 2#32) [] ∧ s.SameMemory t ∧ s.SameInputs t) ∧
    (∀ (cond : BitVec 4) (value : BitVec 24), s.condPassed cond = true → ∃ t, exec (.armSwi cond value) s = .next t ∧
      s.Entered t .swi (s.pc + 4#32) [] ∧ s.SameMemory t ∧ s.SameInputs t)

/-- An unallocated THUMB halfword takes the undefined instruction trap, with the next instruction's address as the return
value, where the platform's parameter says that it traps, and is refused where it does not (R123, R311; decision D5,
log 2). -/
def Obligations.UnallocatedHalfwords : Prop :=
  ∀ (s : State) (i : Instr), Unallocated i →
    (s.unallocTraps = true → ∃ t, exec i s = .next t ∧
      s.Entered t .undefined (s.pc + 2#32) [] ∧ s.SameMemory t ∧ s.SameInputs t) ∧
    (s.unallocTraps = false → exec i s = .refused .unallocated)

/-- The halfwords the sources call undefined, and BX with other low bits than 000, are refused, each by its name (R122, R271;
decisions D6 and D7, logs 13 and 14). -/
def Obligations.UndefinedHalfwordsRefused : Prop :=
  ∀ s : State,
    (∀ x : BitVec 6, exec (.undefAddLoLo x) s = .refused .hiOpBothLo ∧ exec (.undefCmpLoLo x) s = .refused .hiOpBothLo ∧
      exec (.undefMovLoLo x) s = .refused .hiOpBothLo) ∧
    (∀ x : BitVec 7, exec (.undefBxH1 x) s = .refused .bxH1) ∧
    (∀ x : BitVec 8, exec (.undefCond14 x) s = .refused .condUndefined) ∧
    (∀ x : BitVec 4, exec (.bxLowBits1 x) s = .refused .bxLowBits ∧ exec (.bxLowBits2 x) s = .refused .bxLowBits ∧
      exec (.bxLowBits3 x) s = .refused .bxLowBits ∧ exec (.bxLowBits4 x) s = .refused .bxLowBits ∧
      exec (.bxLowBits5 x) s = .refused .bxLowBits ∧ exec (.bxLowBits6 x) s = .refused .bxLowBits ∧
      exec (.bxLowBits7 x) s = .refused .bxLowBits)

/-- At a boundary: an FIQ that is not disabled is taken, an IRQ that is not disabled where no FIQ is, and where neither is an aborted
fetch takes the prefetch abort; the return value is the address of the instruction not executed plus 4, in both states (R312,
R315 to R317; the THUMB return value is derived, D9, log 26; the disable bits GK12, log 25). No byte of memory changes but
those other masters write (R334, log 31). -/
def Obligations.BoundaryExceptions : Prop :=
  ∀ s : State, s.lines.reset = false → s.mode ≠ none →
    (s.lines.fiq = true → s.fiqMasked = false → ∃ t, step s = .next t ∧
      s.Entered t .fiq (s.pc + 4#32) [] ∧ s.MastersMemory t ∧ s.NextInputs t) ∧
    (s.lines.fiq = false ∨ s.fiqMasked = true → s.lines.irq = true → s.irqMasked = false → ∃ t, step s = .next t ∧
      s.Entered t .irq (s.pc + 4#32) [] ∧ s.MastersMemory t ∧ s.NextInputs t) ∧
    (s.lines.fiq = false ∨ s.fiqMasked = true → s.lines.irq = false ∨ s.irqMasked = true →
      s.aborts .fetch (if s.thumb then .half else .word) s.pc = true → ∃ t, step s = .next t ∧
      s.Entered t .prefetchAbort (s.pc + 4#32) [] ∧ s.MastersMemory t ∧ s.NextInputs t)

/-- The order of exceptions that arise together: a reset before all, then the data abort of the instruction just executed (a
single load or store, or a block transfer), then FIQ, then IRQ, then the prefetch abort, then the instruction itself with its undefined trap or SWI (R319). -/
def Obligations.ExceptionPriorities : Prop :=
  ∀ s : State, s.mode ≠ none →
    (s.lines.reset = true → ∃ t, step s = .next t ∧ t.pc = 0x00#32) ∧
    (∀ i : Instr, s.DataAborts i → s.fiqMasked = false → ∃ t, exec i s = .next t ∧ t.pc = 0x10#32 ∧
        ∀ u, u = { t with lines := { t.lines with reset := false, fiq := true } } →
          ∃ v, step u = .next v ∧ v.pc = 0x1C#32) ∧
    (s.lines.reset = false → s.lines.fiq = true → s.fiqMasked = false → ∃ t, step s = .next t ∧ t.pc = 0x1C#32) ∧
    (s.lines.reset = false → s.lines.fiq = false ∨ s.fiqMasked = true → s.lines.irq = true → s.irqMasked = false →
      ∃ t, step s = .next t ∧ t.pc = 0x18#32) ∧
    (s.lines.reset = false → s.lines.fiq = false ∨ s.fiqMasked = true → s.lines.irq = false ∨ s.irqMasked = true →
      s.aborts .fetch (if s.thumb then .half else .word) s.pc = true → ∃ t, step s = .next t ∧ t.pc = 0x0C#32)

/-- A data abort with an FIQ pending and enabled: the abort is entered, F as before, and the FIQ at the boundary after it, with
return value 0x10 + 4 and the Abort-mode CPSR saved; an IRQ is not taken there, and the return from the FIQ resumes the
abort handler (R323). -/
def Obligations.DataAbortThenFiq : Prop :=
  ∀ s : State, s.fiqMasked = false →
    s.dataAbort.pc = 0x10#32 ∧ s.dataAbort.modeBits = 0b10111#5 ∧ s.dataAbort.irqMasked = true ∧
    s.dataAbort.fiqMasked = false ∧
    ∀ l : Lines, l.reset = false →
      (l.fiq = true → ∃ u w, step { s.dataAbort with lines := l } = .next u ∧ u.pc = 0x1C#32 ∧
        u.getPhys (.r14 .fiq) = 0x14#32 ∧ u.spsrFiq = s.dataAbort.cpsr ∧
        exec (.armSubsPcLr4 0xE#4) u = .next w ∧ w.pc = 0x10#32 ∧ w.cpsr = s.dataAbort.cpsr) ∧
      (l.fiq = false → ({ s.dataAbort with lines := l }).nextEvent ≠ .irq)

/-- The return instructions, where their condition passes in a mode that has an SPSR: the CPSR takes the SPSR whole, the PC
takes R14 less 0, 4 or 8, aligned for the state returned to, and nothing else changes; from an SPSR with an illegal mode the
machine is stuck. That such a return itself completes, the CPSR and the PC written, before the machine is stuck is the model's
choice (log 10): R320 names the stuck machine before those writes. In User and System mode, which have no SPSR, they are
refused (R284 to R286, R320; the refusal is decision D27, log 18; the condition field and the encodings are GK13, log 19). -/
def Obligations.ExceptionReturn : Prop :=
  ∀ (s : State) (i : Instr) (cond : BitVec 4) (less : Word), ReturnForm i cond less → s.condPassed cond = true →
    (∀ (m : Mode) (w : Word), s.mode = some m → s.spsrOf m = some w → ∃ t, exec i s = .next t ∧
      t.cpsr = w ∧
      t.pc = (if w.getLsbD 5 then (s.readReg 14 - less) &&& 0xFFFFFFFE#32 else (s.readReg 14 - less) &&& 0xFFFFFFFC#32) ∧
      s.SameRegsBut t [] ∧ s.SameSaved t ∧ s.SameMemory t ∧ s.SameInputs t ∧ t.draws = s.draws ∧
      (Mode.ofBits (psrM w) = none → t.lines.reset = false → t.nextEvent = .stuck)) ∧
    (s.mode = some .usr ∨ s.mode = some .sys → exec i s = .refused .noSpsr)

/-- Every exception but reset, entered from either state, is left by its return instruction at the right address, with the
CPSR, every register but R14 of the mode entered, every other SPSR, and memory as before it: SWI and the undefined trap at
the next instruction, FIQ, IRQ and both aborts at the instruction itself (R306, whose THUMB column is derived, D9, log 26; the
return instructions' words are GK13, log 19). After the data abort of a block transfer the base register, and what the
transfer has loaded or stored, are not as before it (R244; D15, log 27); where other masters write, memory has their writes
(log 31). -/
def Obligations.ReturnResumes : Prop :=
  ∀ s : State, s.PcAligned →
    (∀ value : BitVec 8, s.thumb = true → ∃ t u, exec (.swi value) s = .next t ∧
      exec (.armMovsPcLr 0xE#4) t = .next u ∧ s.Resumed u .swi (s.pc + 2#32) [] ∧ s.SameMemory u) ∧
    (∀ (cond : BitVec 4) (value : BitVec 24), s.thumb = false → s.condPassed cond = true → ∃ t u,
      exec (.armSwi cond value) s = .next t ∧ exec (.armMovsPcLr 0xE#4) t = .next u ∧
      s.Resumed u .swi (s.pc + 4#32) [] ∧ s.SameMemory u) ∧
    (∀ i : Instr, Unallocated i → s.thumb = true → s.unallocTraps = true → ∃ t u, exec i s = .next t ∧
      exec (.armMovsPcLr 0xE#4) t = .next u ∧ s.Resumed u .undefined (s.pc + 2#32) [] ∧ s.SameMemory u) ∧
    (s.lines.reset = false → s.mode ≠ none → s.lines.fiq = true → s.fiqMasked = false → ∃ t u, step s = .next t ∧
      exec (.armSubsPcLr4 0xE#4) t = .next u ∧ s.Resumed u .fiq s.pc [] ∧ s.MastersMemory u) ∧
    (s.lines.reset = false → s.mode ≠ none → s.lines.fiq = false ∨ s.fiqMasked = true → s.lines.irq = true →
      s.irqMasked = false → ∃ t u, step s = .next t ∧
      exec (.armSubsPcLr4 0xE#4) t = .next u ∧ s.Resumed u .irq s.pc [] ∧ s.MastersMemory u) ∧
    (s.lines.reset = false → s.mode ≠ none → s.lines.fiq = false ∨ s.fiqMasked = true →
      s.lines.irq = false ∨ s.irqMasked = true → s.aborts .fetch s.fetchSize s.pc = true → ∃ t u, step s = .next t ∧
      exec (.armSubsPcLr4 0xE#4) t = .next u ∧ s.Resumed u .prefetchAbort s.pc [] ∧ s.MastersMemory u) ∧
    (∀ (i : Instr) (rd : BitVec 3) (z : Size) (a : Word) (f : Word → Word), s.LoadForm i rd z a f →
      aligned z a = true → s.aborts .read z a = true → ∃ t u, exec i s = .next t ∧
      exec (.armSubsPcLr8 0xE#4) t = .next u ∧ s.Resumed u .dataAbort s.pc [] ∧ s.SameMemory u) ∧
    (∀ (i : Instr) (rd : BitVec 3) (z : Size) (a : Word), s.StoreForm i rd z a →
      aligned z a = true → s.aborts .write z a = true → ∃ t u, exec i s = .next t ∧
      exec (.armSubsPcLr8 0xE#4) t = .next u ∧ s.Resumed u .dataAbort s.pc [] ∧ s.SameMemory u) ∧
    (∀ (i : Instr) (regs : List RegNum) (start : Word) (base : RegNum) (final : Word) (k : Nat),
      s.BlockStoreForm i regs start base final → aligned .word start = true → k < regs.length →
      s.aborts .write .word (wordAt start k) = true → ∃ t u, exec i s = .next t ∧
      exec (.armSubsPcLr8 0xE#4) t = .next u ∧ s.Resumed u .dataAbort s.pc (s.named [base]) ∧
      ∀ a, (∀ j, j < 4 * regs.length → a ≠ start + BitVec.ofNat 32 j) → u.readByte a = s.readByte a) ∧
    (∀ (i : Instr) (regs : List RegNum) (start : Word) (base : RegNum) (final : Word) (k : Nat),
      s.BlockLoadForm i regs start base final → aligned .word start = true → k < regs.length →
      (∀ j, j < k → s.aborts .read .word (wordAt start j) = false ∧
        (s.onDevice .word (wordAt start j) = true ∨ (s.readWord (wordAt start j)).isSome)) →
      s.aborts .read .word (wordAt start k) = true → ∃ t u, exec i s = .next t ∧
      exec (.armSubsPcLr8 0xE#4) t = .next u ∧ s.Resumed u .dataAbort s.pc (s.named (base :: regs.take k)) ∧
      s.SameMemory u)

/-! ### Whole-machine rules -/

/-- A step changes the mode only by entering an exception, at its vector, in ARM state, with an interrupt only where its
disable bit is clear; or by a return, from a mode with an SPSR and in ARM state, to the mode its SPSR holds. So User mode is
left only by an exception, and no exception enters System mode (R302). -/
def Obligations.ModeChanges : Prop :=
  ∀ s t : State, step s = .next t → t.modeBits ≠ s.modeBits →
    (∃ k : Exc, t.modeBits = k.mode.bits ∧ t.pc = k.vector ∧ t.thumb = false ∧
      (k = .irq → s.irqMasked = false) ∧ (k = .fiq → s.fiqMasked = false) ∧ t.mode ≠ some .sys) ∨
    (∃ m w, s.mode = some m ∧ m ≠ .usr ∧ m ≠ .sys ∧ s.thumb = false ∧ s.spsrOf m = some w ∧ t.cpsr = w)

/-- In User mode a step leaves I, F, the mode, the reserved bits and every SPSR as they are, or it entered an exception: it is
in a privileged mode at a vector (R39). -/
def Obligations.UserControlBits : Prop :=
  ∀ s t : State, s.mode = some .usr → step s = .next t →
    (s.SameControl t ∧ s.SameSaved t) ∨
    ∃ k : Exc, t.mode = some k.mode ∧ k.mode ≠ .usr ∧ t.pc = k.vector ∧ t.thumb = false

/-- A THUMB instruction that answers a next state keeps I, F, the mode, the reserved bits and the SPSRs, and T but for BX; or
it entered an exception: SWI, the undefined trap or the data abort, which a block load may enter after a device has answered
it with free values (R27, a derived rule; devices are log 32). -/
def Obligations.ThumbKeepsControl : Prop :=
  ∀ (s t : State) (i : Instr), i.isThumb = true → exec i s = .next t →
    (s.SameControl t ∧ s.SameSaved t ∧
      (t.thumb = s.thumb ∨ (∃ rs, i = .bxRs rs) ∨ ∃ hs, i = .bxHs hs)) ∨
    ∃ k link written, (k = .swi ∨ k = .undefined ∨ k = .dataAbort) ∧ ({ s with draws := t.draws }).Entered t k link written

/-! ### Formats 1 and 4: shifts -/

/-- The shifts by an immediate, every amount (R141 to R145; what a field of 0 means, C, and V kept are GK3 and GK4,
log 21). -/
def Obligations.ShiftImmediate : Prop :=
  ∀ (s : State) (rd rs : BitVec 3) (off : BitVec 5),
    (∃ t, exec (.lslImm rd rs off) s = .next t ∧
      s.LoResult t rd (BitVec.ofNat 32 ((s.readReg (loReg rs)).toNat * 2 ^ off.toNat))
        (if off = 0#5 then s.flagC else (s.readReg (loReg rs)).getLsbD (32 - off.toNat)) s.flagV) ∧
    (∃ t, exec (.lsrImm rd rs off) s = .next t ∧
      s.LoResult t rd
        (if off = 0#5 then 0#32 else BitVec.ofNat 32 ((s.readReg (loReg rs)).toNat / 2 ^ off.toNat))
        (if off = 0#5 then (s.readReg (loReg rs)).getLsbD 31 else (s.readReg (loReg rs)).getLsbD (off.toNat - 1))
        s.flagV) ∧
    (∃ t, exec (.asrImm rd rs off) s = .next t ∧
      s.LoResult t rd
        (if off = 0#5 then (if (s.readReg (loReg rs)).toInt < 0 then 0xFFFFFFFF#32 else 0#32)
          else BitVec.ofInt 32 ((s.readReg (loReg rs)).toInt / 2 ^ off.toNat))
        (if off = 0#5 then (s.readReg (loReg rs)).getLsbD 31 else (s.readReg (loReg rs)).getLsbD (off.toNat - 1))
        s.flagV)

/-- The shifts by a register, the amount being the bottom byte of Rs, 0 to 255 (R163 to R165, R168, R177; the amount, C and V
kept are GK3 and GK5, log 21). -/
def Obligations.ShiftRegister : Prop :=
  ∀ (s : State) (rd rs : BitVec 3) (x : Word) (n : Nat), x = s.readReg (loReg rd) →
    n = (s.readReg (loReg rs)).toNat % 256 →
    (∃ t, exec (.lslReg rd rs) s = .next t ∧
      s.LoResult t rd (BitVec.ofNat 32 (x.toNat * 2 ^ n))
        (if n = 0 then s.flagC else if n ≤ 32 then x.getLsbD (32 - n) else false) s.flagV) ∧
    (∃ t, exec (.lsrReg rd rs) s = .next t ∧
      s.LoResult t rd (BitVec.ofNat 32 (x.toNat / 2 ^ n))
        (if n = 0 then s.flagC else if n ≤ 32 then x.getLsbD (n - 1) else false) s.flagV) ∧
    (∃ t, exec (.asrReg rd rs) s = .next t ∧
      s.LoResult t rd (BitVec.ofInt 32 (x.toInt / 2 ^ n))
        (if n = 0 then s.flagC else if n ≤ 32 then x.getLsbD (n - 1) else x.getLsbD 31) s.flagV) ∧
    (∃ t, exec (.rorReg rd rs) s = .next t ∧
      s.LoResult t rd (x.rotateRight (n % 32))
        (if n = 0 then s.flagC else if n % 32 = 0 then x.getLsbD 31 else x.getLsbD (n % 32 - 1)) s.flagV)

/-! ### Formats 2, 3 and 4: sums, differences and comparisons -/

/-- The additions into a Lo register: the sum modulo 2^32, C the carry out of bit 31, V the signed overflow (R146, R147, R152,
R40; the C and V of an addition are GK2, log 21). -/
def Obligations.Additions : Prop :=
  ∀ (s : State) (i : Instr) (rd : BitVec 3) (a b : Word),
    ((∃ rs rn, i = .addReg rd rs rn ∧ a = s.readReg (loReg rs) ∧ b = s.readReg (loReg rn)) ∨
      (∃ rs imm, i = .addImm3 rd rs imm ∧ a = s.readReg (loReg rs) ∧ b = BitVec.ofNat 32 imm.toNat) ∨
      (∃ imm, i = .addImm8 rd imm ∧ a = s.readReg (loReg rd) ∧ b = BitVec.ofNat 32 imm.toNat)) →
    ∃ t, exec i s = .next t ∧
      s.LoResult t rd (a + b) (decide (2 ^ 32 ≤ a.toNat + b.toNat)) (overflows (a.toInt + b.toInt))

/-- The subtractions into a Lo register: the difference modulo 2^32, C set where there is no borrow, V the signed overflow
(R148, R149, R153, R40, where the spec derives the flags of a subtraction). -/
def Obligations.Subtractions : Prop :=
  ∀ (s : State) (i : Instr) (rd : BitVec 3) (a b : Word),
    ((∃ rs rn, i = .subReg rd rs rn ∧ a = s.readReg (loReg rs) ∧ b = s.readReg (loReg rn)) ∨
      (∃ rs imm, i = .subImm3 rd rs imm ∧ a = s.readReg (loReg rs) ∧ b = BitVec.ofNat 32 imm.toNat) ∨
      (∃ imm, i = .subImm8 rd imm ∧ a = s.readReg (loReg rd) ∧ b = BitVec.ofNat 32 imm.toNat) ∨
      (∃ rs, i = .negReg rd rs ∧ a = 0#32 ∧ b = s.readReg (loReg rs))) →
    ∃ t, exec i s = .next t ∧
      s.LoResult t rd (a - b) (decide (b.toNat ≤ a.toNat)) (overflows (a.toInt - b.toInt))

/-- ADC adds the C flag, SBC subtracts what the C flag lacks of 1; both write the four flags of the exact result (R166, R167,
R40; the flags are GK2 and derived, log 21). -/
def Obligations.CarryArithmetic : Prop :=
  ∀ (s : State) (rd rs : BitVec 3) (a b : Word) (c : Nat), a = s.readReg (loReg rd) → b = s.readReg (loReg rs) →
    c = (if s.flagC then 1 else 0) →
    (∃ t, exec (.adcReg rd rs) s = .next t ∧
      s.LoResult t rd (a + b + BitVec.ofNat 32 c) (decide (2 ^ 32 ≤ a.toNat + b.toNat + c))
        (overflows (a.toInt + b.toInt + c))) ∧
    (∃ t, exec (.sbcReg rd rs) s = .next t ∧
      s.LoResult t rd (a - b - BitVec.ofNat 32 (1 - c)) (decide (b.toNat + (1 - c) ≤ a.toNat))
        (overflows (a.toInt - b.toInt - (1 - c))))

/-- The comparisons write the four flags of a difference, CMN those of a sum, and no register; a Hi operand R15 reads as the
address plus 4 (R151, R171, R172, R192, R195, R40; the flags are GK2 and derived, log 21). -/
def Obligations.Comparisons : Prop :=
  ∀ (s : State) (i : Instr) (a b : Word),
    ((∃ rd imm, i = .cmpImm8 rd imm ∧ a = s.readReg (loReg rd) ∧ b = BitVec.ofNat 32 imm.toNat) ∨
      (∃ rd rs, i = .cmpReg rd rs ∧ a = s.readReg (loReg rd) ∧ b = s.readReg (loReg rs)) ∨
      (∃ rd hs, i = .cmpRdHs rd hs ∧ s.thumb = true ∧ a = s.readReg (loReg rd) ∧
        b = if hs = 7#3 then s.pc + 4#32 else s.readReg (hiReg hs)) ∨
      (∃ hd rs, i = .cmpHdRs hd rs ∧ s.thumb = true ∧ b = s.readReg (loReg rs) ∧
        a = if hd = 7#3 then s.pc + 4#32 else s.readReg (hiReg hd)) ∨
      (∃ hd hs, i = .cmpHdHs hd hs ∧ s.thumb = true ∧
        (a = if hd = 7#3 then s.pc + 4#32 else s.readReg (hiReg hd)) ∧
        b = if hs = 7#3 then s.pc + 4#32 else s.readReg (hiReg hs)) →
      ∃ t, exec i s = .next t ∧
        s.FlagResult t (a - b) (decide (b.toNat ≤ a.toNat)) (overflows (a.toInt - b.toInt))) ∧
    (∀ rd rs, i = .cmnReg rd rs → a = s.readReg (loReg rd) → b = s.readReg (loReg rs) → ∃ t, exec i s = .next t ∧
      s.FlagResult t (a + b) (decide (2 ^ 32 ≤ a.toNat + b.toNat)) (overflows (a.toInt + b.toInt)))

/-- After a comparison of `a` with `b`, the conditions read as the sources' table says: equal, unsigned higher or same, lower,
higher, lower or same, the four signed orders, and whether the difference modulo 2^32 is negative (R42 with the flags of R40,
derived there). -/
def Obligations.ComparisonReadings : Prop :=
  ∀ (s : State) (rd rs : BitVec 3) (a b : Word), a = s.readReg (loReg rd) → b = s.readReg (loReg rs) →
    ∃ t, exec (.cmpReg rd rs) s = .next t ∧
      t.condPassed 0x0#4 = decide (a = b) ∧ t.condPassed 0x1#4 = decide (a ≠ b) ∧
      t.condPassed 0x2#4 = decide (b.toNat ≤ a.toNat) ∧ t.condPassed 0x3#4 = decide (a.toNat < b.toNat) ∧
      t.condPassed 0x4#4 = decide ((a - b).toInt < 0) ∧ t.condPassed 0x5#4 = decide (0 ≤ (a - b).toInt) ∧
      t.condPassed 0x8#4 = decide (b.toNat < a.toNat) ∧ t.condPassed 0x9#4 = decide (a.toNat ≤ b.toNat) ∧
      t.condPassed 0xA#4 = decide (b.toInt ≤ a.toInt) ∧ t.condPassed 0xB#4 = decide (a.toInt < b.toInt) ∧
      t.condPassed 0xC#4 = decide (b.toInt < a.toInt) ∧ t.condPassed 0xD#4 = decide (a.toInt ≤ b.toInt)

/-! ### Formats 3 and 4: moves, logic, multiplication -/

/-- The logical operations, MVN and the immediate MOV write N and Z of their result and keep C and V; TST writes no register
(R150, R161, R162, R169, R173, R175, R176; that C and V are kept is GK3, log 21). -/
def Obligations.LogicAndMoves : Prop :=
  ∀ (s : State) (rd rs : BitVec 3) (x y : Word), x = s.readReg (loReg rd) → y = s.readReg (loReg rs) →
    (∀ imm : BitVec 8, ∃ t, exec (.movImm8 rd imm) s = .next t ∧
      s.LoResult t rd (BitVec.ofNat 32 imm.toNat) s.flagC s.flagV) ∧
    (∃ t, exec (.andReg rd rs) s = .next t ∧ s.LoResult t rd (x &&& y) s.flagC s.flagV) ∧
    (∃ t, exec (.eorReg rd rs) s = .next t ∧ s.LoResult t rd (x ^^^ y) s.flagC s.flagV) ∧
    (∃ t, exec (.orrReg rd rs) s = .next t ∧ s.LoResult t rd (x ||| y) s.flagC s.flagV) ∧
    (∃ t, exec (.bicReg rd rs) s = .next t ∧ s.LoResult t rd (x &&& ~~~y) s.flagC s.flagV) ∧
    (∃ t, exec (.mvnReg rd rs) s = .next t ∧ s.LoResult t rd (~~~y) s.flagC s.flagV) ∧
    (∃ t, exec (.tstReg rd rs) s = .next t ∧ s.FlagResult t (x &&& y) s.flagC s.flagV)

/-- MUL writes the low word of the product and its N and Z, and keeps V; C is a free value, of which nothing is said (R174; N
and Z only, and the draw, are decision D14 with GK6, log 11). -/
def Obligations.Multiplication : Prop :=
  ∀ (s : State) (rd rs : BitVec 3) (r : Word),
    r = BitVec.ofNat 32 ((s.readReg (loReg rs)).toNat * (s.readReg (loReg rd)).toNat) →
    ∃ t, exec (.mulReg rd rs) s = .next t ∧ t.readReg (loReg rd) = r ∧
      t.flagN = decide (r.toInt < 0) ∧ t.flagZ = decide (r = 0#32) ∧ t.flagV = s.flagV ∧ t.thumb = s.thumb ∧
      t.pc = s.pc + 2#32 ∧ s.SameRegsBut t (s.named [loReg rd]) ∧ s.SameSaved t ∧ s.SameControl t ∧
      s.SameInputs t ∧ s.SameMemory t

/-! ### Format 5 -/

/-- ADD and MOV of format 5 in THUMB state: the words decode so; R15 reads as the address plus 4; the result goes to the
register, no flag changes (R191, R193), and a result for R15 is the next instruction's address with bit 0 dropped, T kept (R195
and R30: derived there and from general knowledge, GK11, D25, log 24). -/
def Obligations.HiAddAndMov : Prop :=
  (∀ d s : BitVec 3,
    decodeThumb (0b0100010001#10 ++ s ++ d) = .addRdHs d s ∧ decodeThumb (0b0100010010#10 ++ s ++ d) = .addHdRs d s ∧
    decodeThumb (0b0100010011#10 ++ s ++ d) = .addHdHs d s ∧ decodeThumb (0b0100011001#10 ++ s ++ d) = .movRdHs d s ∧
    decodeThumb (0b0100011010#10 ++ s ++ d) = .movHdRs d s ∧ decodeThumb (0b0100011011#10 ++ s ++ d) = .movHdHs d s) ∧
  ∀ (s : State) (add mov : Instr) (d src : RegNum) (a b : Word), s.thumb = true →
    ((∃ rd hs, add = .addRdHs rd hs ∧ mov = .movRdHs rd hs ∧ d = loReg rd ∧ src = hiReg hs) ∨
      (∃ hd rs, add = .addHdRs hd rs ∧ mov = .movHdRs hd rs ∧ d = hiReg hd ∧ src = loReg rs) ∨
      (∃ hd hs, add = .addHdHs hd hs ∧ mov = .movHdHs hd hs ∧ d = hiReg hd ∧ src = hiReg hs)) →
    (a = if d = 15 then s.pc + 4#32 else s.readReg d) → (b = if src = 15 then s.pc + 4#32 else s.readReg src) →
    (d ≠ 15 → (∃ t, exec add s = .next t ∧ s.PlainResult t d (a + b)) ∧
      ∃ t, exec mov s = .next t ∧ s.PlainResult t d b) ∧
    (d = 15 → (∃ t, exec add s = .next t ∧ s.Jumped t ((a + b) &&& 0xFFFFFFFE#32) true []) ∧
      ∃ t, exec mov s = .next t ∧ s.Jumped t (b &&& 0xFFFFFFFE#32) true [])

/-- BX, in THUMB state from a Lo or a Hi register and in ARM state where its condition passes: bit 0 set enters THUMB state at
the address without it, bits [1:0] = 00 enter ARM state, and bits [1:0] = 10 are refused; nothing else changes. R15 reads as
the address plus 4, in ARM state plus 8 (R194, R283; the refusal is decision D26, the ARM form GK13, logs 17 and 19). -/
def Obligations.BranchExchange : Prop :=
  ∀ (s : State) (i : Instr) (x : Word),
    ((∃ rs, i = .bxRs rs ∧ x = s.readReg (loReg rs)) ∨
      (∃ hs, i = .bxHs hs ∧ s.thumb = true ∧ x = if hs = 7#3 then s.pc + 4#32 else s.readReg (hiReg hs)) ∨
      (∃ cond rn, i = .armBx cond rn ∧ s.condPassed cond = true ∧
        x = if rn = 15#4 then s.pc + 8#32 else s.readReg (armReg rn))) →
    (x.getLsbD 0 = true → ∃ t, exec i s = .next t ∧ s.Jumped t (x &&& 0xFFFFFFFE#32) true []) ∧
    (x.getLsbD 0 = false → x.getLsbD 1 = false → ∃ t, exec i s = .next t ∧ s.Jumped t x false []) ∧
    (x.getLsbD 0 = false → x.getLsbD 1 = true → exec i s = .refused (.bxMisaligned x))

/-! ### Formats 6 to 11 -/

/-- The word loads: each word decodes so, and where the address is aligned, the access not aborted, no device's, and its bytes hold a value,
the word there goes to Rd and nothing but the PC changes else (R201, R204, R211, R217). -/
def Obligations.WordLoads : Prop :=
  (∀ (rd rb ro : BitVec 3) (imm : BitVec 8) (off : BitVec 5),
    decodeThumb (0b01001#5 ++ rd ++ imm) = .ldrPc rd imm ∧
    decodeThumb (0b0101100#7 ++ ro ++ rb ++ rd) = .ldrReg rd rb ro ∧
    decodeThumb (0b01101#5 ++ off ++ rb ++ rd) = .ldrImm rd rb off ∧
    decodeThumb (0b10011#5 ++ rd ++ imm) = .ldrSp rd imm) ∧
  ∀ (s : State) (i : Instr) (rd : BitVec 3) (a v : Word) (f : Word → Word), s.LoadForm i rd .word a f →
    a.toNat % 4 = 0 → s.aborts .read .word a = false → s.onDevice .word a = false → s.readWord a = some v →
    ∃ t, exec i s = .next t ∧ s.PlainResult t (loReg rd) v

/-- LDRH sets the upper half of Rd to 0, LDSB and LDSH copy the sign bit upward; each word decodes so (R207, R208, R209,
R215). -/
def Obligations.ExtendingLoads : Prop :=
  (∀ (rd rb ro : BitVec 3) (off : BitVec 5),
    decodeThumb (0b0101101#7 ++ ro ++ rb ++ rd) = .ldrhReg rd rb ro ∧
    decodeThumb (0b0101011#7 ++ ro ++ rb ++ rd) = .ldsbReg rd rb ro ∧
    decodeThumb (0b0101111#7 ++ ro ++ rb ++ rd) = .ldshReg rd rb ro ∧
    decodeThumb (0b10001#5 ++ off ++ rb ++ rd) = .ldrhImm rd rb off) ∧
  ∀ (s : State) (rd rb ro : BitVec 3) (off : BitVec 5) (a : Word),
    (∀ b : Byte, a = s.readReg (loReg rb) + s.readReg (loReg ro) → s.aborts .read .byte a = false →
      s.onDevice .byte a = false → s.readByte a = some b → ∃ t, exec (.ldsbReg rd rb ro) s = .next t ∧
        s.PlainResult t (loReg rd) (BitVec.ofInt 32 b.toInt)) ∧
    (∀ h : Half, a = s.readReg (loReg rb) + s.readReg (loReg ro) → a.toNat % 2 = 0 →
      s.aborts .read .half a = false → s.onDevice .half a = false → s.readHalf a = some h →
      (∃ t, exec (.ldrhReg rd rb ro) s = .next t ∧ s.PlainResult t (loReg rd) (BitVec.ofNat 32 h.toNat)) ∧
      ∃ t, exec (.ldshReg rd rb ro) s = .next t ∧ s.PlainResult t (loReg rd) (BitVec.ofInt 32 h.toInt)) ∧
    (∀ h : Half, a = s.readReg (loReg rb) + BitVec.ofNat 32 (2 * off.toNat) → a.toNat % 2 = 0 →
      s.aborts .read .half a = false → s.onDevice .half a = false → s.readHalf a = some h →
      ∃ t, exec (.ldrhImm rd rb off) s = .next t ∧ s.PlainResult t (loReg rd) (BitVec.ofNat 32 h.toNat))

/-- LDRB loads its byte with the rest of Rd set to 0: the zero extension is the spec's own choice (R218, GK7, decision D29,
log 22). -/
def Obligations.ByteLoads : Prop :=
  ∀ (s : State) (rd rb ro : BitVec 3) (off : BitVec 5) (a : Word) (b : Byte),
    s.aborts .read .byte a = false → s.onDevice .byte a = false → s.readByte a = some b →
    (a = s.readReg (loReg rb) + s.readReg (loReg ro) →
      ∃ t, exec (.ldrbReg rd rb ro) s = .next t ∧ s.PlainResult t (loReg rd) (BitVec.ofNat 32 b.toNat)) ∧
    (a = s.readReg (loReg rb) + BitVec.ofNat 32 off.toNat →
      ∃ t, exec (.ldrbImm rd rb off) s = .next t ∧ s.PlainResult t (loReg rd) (BitVec.ofNat 32 b.toNat))

/-- The word stores: each word decodes so, and where the address is aligned and in RAM and the access not aborted, Rd is the word at
the address and no other byte, register or flag changes (R202, R210, R216). -/
def Obligations.WordStores : Prop :=
  (∀ (rd rb ro : BitVec 3) (imm : BitVec 8) (off : BitVec 5),
    decodeThumb (0b0101000#7 ++ ro ++ rb ++ rd) = .strReg rd rb ro ∧
    decodeThumb (0b01100#5 ++ off ++ rb ++ rd) = .strImm rd rb off ∧
    decodeThumb (0b10010#5 ++ rd ++ imm) = .strSp rd imm) ∧
  ∀ (s : State) (i : Instr) (rd : BitVec 3) (a : Word), s.StoreForm i rd .word a →
    a.toNat % 4 = 0 → s.aborts .write .word a = false → s.inRam .word a = true →
    ∃ t, exec i s = .next t ∧ t.readWord a = some (s.readReg (loReg rd)) ∧ s.Stored t a 4

/-- The byte and halfword stores: each word decodes so, and where the address is aligned and in RAM and the access not aborted, the
low byte or the low halfword of Rd is at the address and no other byte, register or flag changes (R203, R206, R212, R214). -/
def Obligations.NarrowStores : Prop :=
  (∀ (rd rb ro : BitVec 3) (off : BitVec 5),
    decodeThumb (0b0101010#7 ++ ro ++ rb ++ rd) = .strbReg rd rb ro ∧
    decodeThumb (0b01110#5 ++ off ++ rb ++ rd) = .strbImm rd rb off ∧
    decodeThumb (0b0101001#7 ++ ro ++ rb ++ rd) = .strhReg rd rb ro ∧
    decodeThumb (0b10000#5 ++ off ++ rb ++ rd) = .strhImm rd rb off) ∧
  ∀ (s : State) (i : Instr) (rd : BitVec 3) (a : Word),
    (s.StoreForm i rd .byte a → s.aborts .write .byte a = false → s.inRam .byte a = true →
      ∃ t, exec i s = .next t ∧ t.readByte a = some ((s.readReg (loReg rd)).setWidth 8) ∧ s.Stored t a 1) ∧
    (s.StoreForm i rd .half a → a.toNat % 2 = 0 → s.aborts .write .half a = false → s.inRam .half a = true →
      ∃ t, exec i s = .next t ∧ t.readHalf a = some ((s.readReg (loReg rd)).setWidth 16) ∧ s.Stored t a 2)

/-- A single transfer at an address not aligned to its size is refused; an aligned one that is aborted, or is outside the memory
map, takes the data abort with Rd, memory and every other register unchanged and the instruction's address plus 8 as the
return value; a load of a byte that holds no value faults (R67 and D2, R200, R219, R313, R314 and D15, D11; logs 6, 15, 27).
A load from a device puts some value of its size, extended as the instruction extends it, into Rd, and a store in ROM or to a
device changes no byte of memory: these, and the abort outside the map, are the model's choice (R75, D22, log 32). -/
def Obligations.SingleTransferStops : Prop :=
  ∀ (s : State) (i : Instr) (rd : BitVec 3) (z : Size) (a : Word),
    (∀ f, s.LoadForm i rd z a f →
      (a.toNat % z.bytes ≠ 0 → exec i s = .refused (.misaligned a)) ∧
      (a.toNat % z.bytes = 0 → s.aborts .read z a = true ∨ s.outside z a = true → ∃ t, exec i s = .next t ∧
        s.Entered t .dataAbort (s.pc + 8#32) [] ∧ s.SameMemory t ∧ s.SameInputs t) ∧
      (a.toNat % z.bytes = 0 → s.aborts .read z a = false → s.onDevice z a = true → ∃ t x, exec i s = .next t ∧
        ({ s with draws := t.draws }).PlainResult t (loReg rd) (f (z.keep x))) ∧
      (a.toNat % z.bytes = 0 → s.aborts .read z a = false → s.onDevice z a = false →
        ∀ k, k < z.bytes → s.readByte (a + BitVec.ofNat 32 k) = none → exec i s = .fault (.unwritten a))) ∧
    (s.StoreForm i rd z a →
      (a.toNat % z.bytes ≠ 0 → exec i s = .refused (.misaligned a)) ∧
      (a.toNat % z.bytes = 0 → s.aborts .write z a = true ∨ s.outside z a = true → ∃ t, exec i s = .next t ∧
        s.Entered t .dataAbort (s.pc + 8#32) [] ∧ s.SameMemory t ∧ s.SameInputs t) ∧
      (a.toNat % z.bytes = 0 → s.aborts .write z a = false → s.inRam z a = false → ∃ t, exec i s = .next t ∧
        s.SameMemory t ∧ s.SameFlags t ∧ t.thumb = s.thumb ∧ t.pc = s.pc + 2#32 ∧ s.KeepsBut t []))

/-! ### Formats 12 and 13 -/

/-- The address instructions: each word decodes so; ADD of the PC, read 4 ahead with bits [1:0] cleared, or of SP to Rd; ADD and
subtraction of a constant to SP; modulo 2^32 and with no flag changed (R231 to R234). -/
def Obligations.AddressArithmetic : Prop :=
  (∀ (rd : BitVec 3) (imm : BitVec 8) (imm7 : BitVec 7),
    decodeThumb (0b10100#5 ++ rd ++ imm) = .addPc rd imm ∧ decodeThumb (0b10101#5 ++ rd ++ imm) = .addSp rd imm ∧
    decodeThumb (0b101100000#9 ++ imm7) = .addSpPos imm7 ∧ decodeThumb (0b101100001#9 ++ imm7) = .addSpNeg imm7) ∧
  ∀ (s : State) (rd : BitVec 3) (imm : BitVec 8) (imm7 : BitVec 7),
    (∃ t, exec (.addPc rd imm) s = .next t ∧
      s.PlainResult t (loReg rd) (((s.pc + 4#32) &&& 0xFFFFFFFC#32) + BitVec.ofNat 32 (4 * imm.toNat))) ∧
    (∃ t, exec (.addSp rd imm) s = .next t ∧
      s.PlainResult t (loReg rd) (s.readReg 13 + BitVec.ofNat 32 (4 * imm.toNat))) ∧
    (∃ t, exec (.addSpPos imm7) s = .next t ∧
      s.PlainResult t 13 (s.readReg 13 + BitVec.ofNat 32 (4 * imm7.toNat))) ∧
    (∃ t, exec (.addSpNeg imm7) s = .next t ∧
      s.PlainResult t 13 (s.readReg 13 - BitVec.ofNat 32 (4 * imm7.toNat)))

/-! ### Formats 14 and 15 -/

/-- The register list of a block transfer: the Lo registers whose bit is set, in rising order (R240, R241; the bit's place is
GK8, log 23). -/
def Obligations.RegisterList : Prop :=
  ∀ rlist : BitVec 8, (regList rlist).Pairwise (· < ·) ∧
    ∀ i : RegNum, i ∈ regList rlist ↔ i.val < 8 ∧ rlist.getLsbD i.val = true

/-- PUSH, PUSH with LR and STMIA, where the list is not empty, the lowest address aligned and no access aborted: the k-th register
of the list is the word at the lowest address plus 4k where RAM stands there, the base register takes its final value, and no
other byte, register or flag changes (R245, R248; that the lowest register has the lowest address is GK8, log 23; that a word
in ROM or at a device stays as it is, log 32). -/
def Obligations.BlockStores : Prop :=
  ∀ (s : State) (i : Instr) (regs : List RegNum) (start : Word) (base : RegNum) (final : Word),
    s.BlockStoreForm i regs start base final → regs ≠ [] → start.toNat % 4 = 0 →
    (∀ k, k < regs.length → s.aborts .write .word (wordAt start k) = false) →
    ∃ t, exec i s = .next t ∧
      (∀ k (h : k < regs.length), t.readWord (wordAt start k) =
        if s.inRam .word (wordAt start k) then some (s.readReg regs[k]) else s.readWord (wordAt start k)) ∧
      (∀ a, (∀ k, k < 4 * regs.length → a ≠ start + BitVec.ofNat 32 k) → t.readByte a = s.readByte a) ∧
      (∀ c, c ∈ t.stored ↔ c ∈ s.stored ∨ ∃ k j, k < regs.length ∧ j < 4 ∧ s.inRam .word (wordAt start k) = true ∧
        c = (wordAt start k + BitVec.ofNat 32 j).toNat) ∧
      t.readReg base = final ∧ s.SameFlags t ∧ t.thumb = s.thumb ∧
      t.pc = s.pc + 2#32 ∧ s.KeepsBut t (s.named [base])

/-- POP, POP with PC and LDMIA, where the list is not empty, the lowest address aligned, no access aborted and every word but a
device's holds a value: the k-th register of the list takes the word at the lowest address plus 4k, from a device some word,
the base register its final value, and nothing else changes; the PC goes past the instruction, or to the word popped for it
with bit 0 dropped, T kept (R246, R249; the order is GK8, log 23; the PC's bit 0 and T are the spec's own choice, GK11 and D25,
log 24; devices are log 32). -/
def Obligations.BlockLoads : Prop :=
  ∀ (s : State) (i : Instr) (regs : List RegNum) (start : Word) (base : RegNum) (final : Word) (v : Nat → Word),
    s.BlockLoadForm i regs start base final → s.thumb = true → regs ≠ [] → start.toNat % 4 = 0 →
    (∀ k, k < regs.length → s.aborts .read .word (wordAt start k) = false ∧
      (s.onDevice .word (wordAt start k) = false → s.readWord (wordAt start k) = some (v k))) →
    ∃ (t : State) (x : Nat → Word), exec i s = .next t ∧
      (∀ k, k < regs.length → s.onDevice .word (wordAt start k) = false → x k = v k) ∧
      (∀ k (h : k < regs.length), regs[k] ≠ 15 → t.readReg regs[k] = x k) ∧
      t.pc = (if 15 ∈ regs then x (regs.length - 1) &&& 0xFFFFFFFE#32 else s.pc + 2#32) ∧
      t.readReg base = final ∧ s.SameMemory t ∧ s.SameFlags t ∧ t.thumb = true ∧
      ({ s with draws := t.draws }).KeepsBut t (s.named (base :: regs)) ∧
      ((∀ k, k < regs.length → s.onDevice .word (wordAt start k) = false) → t.draws = s.draws)

/-- Registers pushed and then popped into a list of the same length come back in order, SP as it was: the k-th register of the
second list takes the value of the k-th of the first, where the stack is in RAM and no access to it is aborted (R247, a derived
rule). -/
def Obligations.PushThenPop : Prop :=
  ∀ (s : State) (stored loaded : BitVec 8), (regList stored).length = (regList loaded).length → regList stored ≠ [] →
    (s.readReg 13).toNat % 4 = 0 →
    (∀ (k : Nat) (a : Word), k < (regList stored).length →
      a = wordAt (s.readReg 13 - BitVec.ofNat 32 (4 * (regList stored).length)) k →
      s.aborts .write .word a = false ∧ s.aborts .read .word a = false ∧ s.inRam .word a = true) →
    ∃ t u, exec (.push stored) s = .next t ∧ exec (.pop loaded) t = .next u ∧ u.readReg 13 = s.readReg 13 ∧
      (∀ k (h : k < (regList loaded).length) (g : k < (regList stored).length),
        u.readReg (regList loaded)[k] = s.readReg (regList stored)[k]) ∧
      u.pc = s.pc + 4#32

/-- A block transfer is refused where its list is empty, where its lowest address is not aligned, and, for STMIA and LDMIA, where
the base is in the list (R242, R243, R250; decisions D2, D12 and D13, logs 15 and 16). -/
def Obligations.BlockTransferRefused : Prop :=
  ∀ s : State,
    exec (.push 0#8) s = .refused .emptyList ∧ exec (.pop 0#8) s = .refused .emptyList ∧
    (∀ rb : BitVec 3, exec (.stmia rb 0#8) s = .refused .emptyList ∧ exec (.ldmia rb 0#8) s = .refused .emptyList) ∧
    (∀ (rb : BitVec 3) (rlist : BitVec 8), rlist.getLsbD rb.toNat = true →
      exec (.stmia rb rlist) s = .refused .baseInList ∧ exec (.ldmia rb rlist) s = .refused .baseInList) ∧
    (∀ (i : Instr) (regs : List RegNum) (start : Word) (base : RegNum) (final : Word),
      s.BlockStoreForm i regs start base final ∨ s.BlockLoadForm i regs start base final → regs ≠ [] →
      start.toNat % 4 ≠ 0 → exec i s = .refused (.misaligned start))

/-- A block store of which some access is aborted completes: every word of RAM whose access is not aborted is written, every other
one is as before, the base takes its final value, and the data abort is entered with the address plus 8 (R244,
R313; what the later stores do is decision D15, log 27; ROM and devices are log 32). -/
def Obligations.BlockStoreAborted : Prop :=
  ∀ (s : State) (i : Instr) (regs : List RegNum) (start : Word) (base : RegNum) (final : Word),
    s.BlockStoreForm i regs start base final → start.toNat % 4 = 0 →
    (∃ k, k < regs.length ∧ s.aborts .write .word (wordAt start k) = true) →
    ∃ t, exec i s = .next t ∧
      (∀ k (h : k < regs.length), t.readWord (wordAt start k) =
        if s.aborts .write .word (wordAt start k) = false ∧ s.inRam .word (wordAt start k) = true
        then some (s.readReg regs[k]) else s.readWord (wordAt start k)) ∧
      (∀ a, (∀ k, k < 4 * regs.length → a ≠ start + BitVec.ofNat 32 k) → t.readByte a = s.readByte a) ∧
      (∀ p, phys s.mode base = some p → t.getPhys p = final) ∧
      s.Entered t .dataAbort (s.pc + 8#32) (s.named [base]) ∧ s.SameInputs t

/-- A block load whose k-th access is the first one aborted: the registers before it are loaded, it and the later ones are not, the
PC among them, the base takes its final value, memory is unchanged, and the data abort is entered with the address plus 8
(R244, R313; decision D15, log 27; a device's word is some word, log 32). -/
def Obligations.BlockLoadAborted : Prop :=
  ∀ (s : State) (i : Instr) (regs : List RegNum) (start : Word) (base : RegNum) (final : Word) (v : Nat → Word) (k : Nat),
    s.BlockLoadForm i regs start base final → start.toNat % 4 = 0 → k < regs.length →
    (∀ j, j < k → s.aborts .read .word (wordAt start j) = false ∧
      (s.onDevice .word (wordAt start j) = false → s.readWord (wordAt start j) = some (v j))) →
    s.aborts .read .word (wordAt start k) = true →
    ∃ (t : State) (x : Nat → Word), exec i s = .next t ∧
      (∀ j, j < k → s.onDevice .word (wordAt start j) = false → x j = v j) ∧
      (∀ j (h : j < regs.length) p, j < k → phys s.mode regs[j] = some p → t.getPhys p = x j) ∧
      (∀ p, phys s.mode base = some p → t.getPhys p = final) ∧
      ({ s with draws := t.draws }).Entered t .dataAbort (s.pc + 8#32) (s.named (base :: regs.take k)) ∧
      s.SameMemory t ∧ s.SameInputs t ∧
      ((∀ j, j < k → s.onDevice .word (wordAt start j) = false) → t.draws = s.draws)

/-! ### Formats 16, 18 and 19, and the ARM branches -/

/-- The conditional branches on one flag: each word decodes so; to the address plus 4 plus twice the signed offset where the flag
is as named, else past the branch; nothing else changes (R256 to R263). -/
def Obligations.SingleFlagBranches : Prop :=
  (∀ off : BitVec 8,
    decodeThumb (0xD0#8 ++ off) = .beq off ∧ decodeThumb (0xD1#8 ++ off) = .bne off ∧
    decodeThumb (0xD2#8 ++ off) = .bcs off ∧ decodeThumb (0xD3#8 ++ off) = .bcc off ∧
    decodeThumb (0xD4#8 ++ off) = .bmi off ∧ decodeThumb (0xD5#8 ++ off) = .bpl off ∧
    decodeThumb (0xD6#8 ++ off) = .bvs off ∧ decodeThumb (0xD7#8 ++ off) = .bvc off) ∧
  ∀ (s : State) (off : BitVec 8) (i : Instr) (taken : Bool), s.pc.getLsbD 0 = false →
    (i, taken) ∈ [(.beq off, s.flagZ), (.bne off, !s.flagZ), (.bcs off, s.flagC), (.bcc off, !s.flagC),
      (.bmi off, s.flagN), (.bpl off, !s.flagN), (.bvs off, s.flagV), (.bvc off, !s.flagV)] →
    ∃ t, exec i s = .next t ∧
      s.Jumped t (if taken then s.pc + 4#32 + BitVec.ofInt 32 (2 * off.toInt) else s.pc + 2#32) s.thumb []

/-- The conditional branches on several flags: each word decodes so; to the address plus 4 plus twice the signed offset where the
flags are as named, else past the branch; nothing else changes (R264 to R269). -/
def Obligations.SeveralFlagBranches : Prop :=
  (∀ off : BitVec 8,
    decodeThumb (0xD8#8 ++ off) = .bhi off ∧ decodeThumb (0xD9#8 ++ off) = .bls off ∧
    decodeThumb (0xDA#8 ++ off) = .bge off ∧ decodeThumb (0xDB#8 ++ off) = .blt off ∧
    decodeThumb (0xDC#8 ++ off) = .bgt off ∧ decodeThumb (0xDD#8 ++ off) = .ble off) ∧
  ∀ (s : State) (off : BitVec 8) (i : Instr) (taken : Bool), s.pc.getLsbD 0 = false →
    (i, taken) ∈ [(.bhi off, s.flagC && !s.flagZ), (.bls off, !s.flagC || s.flagZ),
      (.bge off, decide (s.flagN = s.flagV)), (.blt off, decide (s.flagN ≠ s.flagV)),
      (.bgt off, !s.flagZ && decide (s.flagN = s.flagV)), (.ble off, s.flagZ || decide (s.flagN ≠ s.flagV))] →
    ∃ t, exec i s = .next t ∧
      s.Jumped t (if taken then s.pc + 4#32 + BitVec.ofInt 32 (2 * off.toInt) else s.pc + 2#32) s.thumb []

/-- B goes to the address plus 4 plus twice its signed offset and changes nothing else; its word decodes so, and 0xE7FE branches
to itself (R272). Such a branch is where a run ends (R367, as log 39 reads it): run at a boundary it leaves registers, status
and PC as they are; the run has ended there, in that state, where the host gives no later input; it has not where an enabled
interrupt is asserted; and once a run has ended it stays ended. -/
def Obligations.UnconditionalBranch : Prop :=
  (∀ off : BitVec 11, decodeThumb (0b11100#5 ++ off) = .b off) ∧
  ∀ (s : State) (off : BitVec 11), s.pc.getLsbD 0 = false →
    (∃ t, exec (.b off) s = .next t ∧ s.Jumped t (s.pc + 4#32 + BitVec.ofInt 32 (2 * off.toInt)) s.thumb []) ∧
    (∃ t, exec (decodeThumb 0xE7FE#16) s = .next t ∧ s.Jumped t s.pc s.thumb []) ∧
    (s.Undisturbed → s.thumb = true → s.readHalf s.pc = some 0xE7FE#16 → s.pc.toNat ∉ s.stored →
      (s.pc + 1#32).toNat ∉ s.stored → s.idle = true ∧
      (∃ t, step s = .next t ∧ t.pc = s.pc ∧ t.cpsr = s.cpsr ∧ s.SameRegsBut t [] ∧ s.SameSaved t ∧
        s.MastersMemory t ∧ s.NextInputs t) ∧
      (s.upcoming = [] → s.masters = [] → ∀ n, s.run n = .ended s) ∧
      ∀ l : Lines, l.irq = true ∧ s.irqMasked = false ∨ l.fiq = true ∧ s.fiqMasked = false →
        ({ s with lines := l }).ended = false) ∧
    (s.ended = true → ∃ t, step s = .next t ∧ t.ended = true ∧ t.pc = s.pc ∧ t.cpsr = s.cpsr ∧ s.SameRegsBut t [] ∧
      s.SameSaved t)

/-- The halves of BL: each word decodes so; the first puts the address plus 4 plus the signed offset times 4096 into LR; the second
goes to LR plus twice its unsigned offset, bit 0 dropped, and puts the next address with bit 0 set into LR; nothing else changes
(R275, R276; that bit 0 is dropped where LR was odd is R30's, GK11 and D25, log 24). -/
def Obligations.BranchLinkHalves : Prop :=
  (∀ off : BitVec 11, decodeThumb (0b11110#5 ++ off) = .blHigh off ∧ decodeThumb (0b11111#5 ++ off) = .blLow off) ∧
  ∀ (s : State) (off : BitVec 11),
    (∃ t, exec (.blHigh off) s = .next t ∧
      s.PlainResult t 14 (s.pc + 4#32 + BitVec.ofInt 32 (4096 * off.toInt))) ∧
    ∃ t, exec (.blLow off) s = .next t ∧ t.readReg 14 = ((s.pc + 2#32) ||| 1#32) ∧
      s.Jumped t ((s.readReg 14 + BitVec.ofNat 32 (2 * off.toNat)) &&& 0xFFFFFFFE#32) s.thumb (s.named [14])

/-- The two halves of BL, as the assembler splits a 23-bit offset with bit 0 zero, reach the label, with the address after the pair,
bit 0 set, in LR (R274). -/
def Obligations.BranchLinkPair : Prop :=
  ∀ (s : State) (off : BitVec 23), s.pc.getLsbD 0 = false → off.getLsbD 0 = false →
    decodeThumb (0b11110#5 ++ off.extractLsb' 12 11) = .blHigh (off.extractLsb' 12 11) ∧
    decodeThumb (0b11111#5 ++ off.extractLsb' 1 11) = .blLow (off.extractLsb' 1 11) ∧
    ∃ t u, exec (.blHigh (off.extractLsb' 12 11)) s = .next t ∧ exec (.blLow (off.extractLsb' 1 11)) t = .next u ∧
      u.pc = s.pc + 4#32 + BitVec.ofInt 32 off.toInt ∧ u.readReg 14 = ((s.pc + 4#32) ||| 1#32)

/-- The ARM branches where their condition passes: B and BL to the address plus 8 plus four times the signed offset, BL with the next
address in LR; MOV PC, R14 to R14 with bits [1:0] cleared, CPSR and T kept (R287, R288; encodings and the plus 8 are GK13,
log 19; the bits cleared and T kept are R30's, GK11 and D25, log 24). nEXEC does not show a failed condition (R282, log 38). -/
def Obligations.ArmBranches : Prop :=
  ∀ (s : State) (cond : BitVec 4) (off : BitVec 24), s.condPassed cond = true →
    s.pc.getLsbD 0 = false → s.pc.getLsbD 1 = false →
    (∃ t, exec (.armB cond off) s = .next t ∧
      s.Jumped t (s.pc + 8#32 + BitVec.ofInt 32 (4 * off.toInt)) s.thumb []) ∧
    (∃ t, exec (.armBl cond off) s = .next t ∧ t.readReg 14 = s.pc + 4#32 ∧
      s.Jumped t (s.pc + 8#32 + BitVec.ofInt 32 (4 * off.toInt)) s.thumb (s.named [14])) ∧
    (∃ t, exec (.armMovPcLr cond) s = .next t ∧ s.Jumped t (s.readReg 14 &&& 0xFFFFFFFC#32) s.thumb []) ∧
    s.pinNEXEC (.armB cond off) = false ∧ s.pinNEXEC (.armBl cond off) = false ∧ s.pinNEXEC (.armMovPcLr cond) = false

/-- An ARM instruction of the subset whose condition fails changes nothing but the PC, which goes past it, and the output nEXEC
shows it (R282; the condition field is GK13, log 19, the level of nEXEC log 38). -/
def Obligations.ArmConditionFails : Prop :=
  ∀ (s : State) (cond rn : BitVec 4) (off : BitVec 24) (i : Instr), s.condPassed cond = false →
    i ∈ [.armBx cond rn, .armMovsPcLr cond, .armSubsPcLr4 cond, .armSubsPcLr8 cond, .armMovPcLr cond, .armB cond off,
      .armBl cond off, .armSwi cond off] →
    (∃ t, exec i s = .next t ∧ s.Jumped t (s.pc + 4#32) s.thumb []) ∧ s.pinNEXEC i = true
end

