-- ==== Sys2Proof/Laws/State.lean ====
section
/-! SUPPORT. What each record update of the machine does to each field of State, true by rfl. Updates that touch only one part of
the state keep every accessor of the other parts. -/

namespace Sys2Proof.Machine

variable (s : State)

/-! ### `State.setPhys` -/

@[simp] theorem State.setPhys_regs (p : PhysReg) (v : Word) : (s.setPhys p v).regs = s.regs.set p.index.val v p.index.isLt := rfl
@[simp] theorem State.setPhys_pc (p : PhysReg) (v : Word) : (s.setPhys p v).pc = s.pc := rfl
@[simp] theorem State.setPhys_cpsr (p : PhysReg) (v : Word) : (s.setPhys p v).cpsr = s.cpsr := rfl
@[simp] theorem State.setPhys_spsrFiq (p : PhysReg) (v : Word) : (s.setPhys p v).spsrFiq = s.spsrFiq := rfl
@[simp] theorem State.setPhys_spsrIrq (p : PhysReg) (v : Word) : (s.setPhys p v).spsrIrq = s.spsrIrq := rfl
@[simp] theorem State.setPhys_spsrSvc (p : PhysReg) (v : Word) : (s.setPhys p v).spsrSvc = s.spsrSvc := rfl
@[simp] theorem State.setPhys_spsrAbt (p : PhysReg) (v : Word) : (s.setPhys p v).spsrAbt = s.spsrAbt := rfl
@[simp] theorem State.setPhys_spsrUnd (p : PhysReg) (v : Word) : (s.setPhys p v).spsrUnd = s.spsrUnd := rfl
@[simp] theorem State.setPhys_mem (p : PhysReg) (v : Word) : (s.setPhys p v).mem = s.mem := rfl
@[simp] theorem State.setPhys_stored (p : PhysReg) (v : Word) : (s.setPhys p v).stored = s.stored := rfl
@[simp] theorem State.setPhys_lines (p : PhysReg) (v : Word) : (s.setPhys p v).lines = s.lines := rfl
@[simp] theorem State.setPhys_upcoming (p : PhysReg) (v : Word) : (s.setPhys p v).upcoming = s.upcoming := rfl
@[simp] theorem State.setPhys_masters (p : PhysReg) (v : Word) : (s.setPhys p v).masters = s.masters := rfl
@[simp] theorem State.setPhys_resetting (p : PhysReg) (v : Word) : (s.setPhys p v).resetting = s.resetting := rfl
@[simp] theorem State.setPhys_memoryMap (p : PhysReg) (v : Word) : (s.setPhys p v).memoryMap = s.memoryMap := rfl
@[simp] theorem State.setPhys_bigend (p : PhysReg) (v : Word) : (s.setPhys p v).bigend = s.bigend := rfl
@[simp] theorem State.setPhys_unallocTraps (p : PhysReg) (v : Word) : (s.setPhys p v).unallocTraps = s.unallocTraps := rfl
@[simp] theorem State.setPhys_draws (p : PhysReg) (v : Word) : (s.setPhys p v).draws = s.draws := rfl
@[simp] theorem State.setPhys_flagN (p : PhysReg) (v : Word) : (s.setPhys p v).flagN = s.flagN := rfl
@[simp] theorem State.setPhys_flagZ (p : PhysReg) (v : Word) : (s.setPhys p v).flagZ = s.flagZ := rfl
@[simp] theorem State.setPhys_flagC (p : PhysReg) (v : Word) : (s.setPhys p v).flagC = s.flagC := rfl
@[simp] theorem State.setPhys_flagV (p : PhysReg) (v : Word) : (s.setPhys p v).flagV = s.flagV := rfl
@[simp] theorem State.setPhys_irqMasked (p : PhysReg) (v : Word) : (s.setPhys p v).irqMasked = s.irqMasked := rfl
@[simp] theorem State.setPhys_fiqMasked (p : PhysReg) (v : Word) : (s.setPhys p v).fiqMasked = s.fiqMasked := rfl
@[simp] theorem State.setPhys_thumb (p : PhysReg) (v : Word) : (s.setPhys p v).thumb = s.thumb := rfl
@[simp] theorem State.setPhys_modeBits (p : PhysReg) (v : Word) : (s.setPhys p v).modeBits = s.modeBits := rfl
@[simp] theorem State.setPhys_mode (p : PhysReg) (v : Word) : (s.setPhys p v).mode = s.mode := rfl
@[simp] theorem State.setPhys_userMode (p : PhysReg) (v : Word) : (s.setPhys p v).userMode = s.userMode := rfl

/-! ### `State.setNZ` -/

@[simp] theorem State.setNZ_regs (r : Word) : (s.setNZ r).regs = s.regs := rfl
@[simp] theorem State.setNZ_pc (r : Word) : (s.setNZ r).pc = s.pc := rfl
@[simp] theorem State.setNZ_cpsr (r : Word) : (s.setNZ r).cpsr = putBit (putBit s.cpsr 31 (r.getLsbD 31)) 30 (r == 0#32) := rfl
@[simp] theorem State.setNZ_spsrFiq (r : Word) : (s.setNZ r).spsrFiq = s.spsrFiq := rfl
@[simp] theorem State.setNZ_spsrIrq (r : Word) : (s.setNZ r).spsrIrq = s.spsrIrq := rfl
@[simp] theorem State.setNZ_spsrSvc (r : Word) : (s.setNZ r).spsrSvc = s.spsrSvc := rfl
@[simp] theorem State.setNZ_spsrAbt (r : Word) : (s.setNZ r).spsrAbt = s.spsrAbt := rfl
@[simp] theorem State.setNZ_spsrUnd (r : Word) : (s.setNZ r).spsrUnd = s.spsrUnd := rfl
@[simp] theorem State.setNZ_mem (r : Word) : (s.setNZ r).mem = s.mem := rfl
@[simp] theorem State.setNZ_stored (r : Word) : (s.setNZ r).stored = s.stored := rfl
@[simp] theorem State.setNZ_lines (r : Word) : (s.setNZ r).lines = s.lines := rfl
@[simp] theorem State.setNZ_upcoming (r : Word) : (s.setNZ r).upcoming = s.upcoming := rfl
@[simp] theorem State.setNZ_masters (r : Word) : (s.setNZ r).masters = s.masters := rfl
@[simp] theorem State.setNZ_resetting (r : Word) : (s.setNZ r).resetting = s.resetting := rfl
@[simp] theorem State.setNZ_memoryMap (r : Word) : (s.setNZ r).memoryMap = s.memoryMap := rfl
@[simp] theorem State.setNZ_bigend (r : Word) : (s.setNZ r).bigend = s.bigend := rfl
@[simp] theorem State.setNZ_unallocTraps (r : Word) : (s.setNZ r).unallocTraps = s.unallocTraps := rfl
@[simp] theorem State.setNZ_draws (r : Word) : (s.setNZ r).draws = s.draws := rfl

/-! ### `State.setC` -/

@[simp] theorem State.setC_regs (c : Bool) : (s.setC c).regs = s.regs := rfl
@[simp] theorem State.setC_pc (c : Bool) : (s.setC c).pc = s.pc := rfl
@[simp] theorem State.setC_cpsr (c : Bool) : (s.setC c).cpsr = putBit s.cpsr 29 c := rfl
@[simp] theorem State.setC_spsrFiq (c : Bool) : (s.setC c).spsrFiq = s.spsrFiq := rfl
@[simp] theorem State.setC_spsrIrq (c : Bool) : (s.setC c).spsrIrq = s.spsrIrq := rfl
@[simp] theorem State.setC_spsrSvc (c : Bool) : (s.setC c).spsrSvc = s.spsrSvc := rfl
@[simp] theorem State.setC_spsrAbt (c : Bool) : (s.setC c).spsrAbt = s.spsrAbt := rfl
@[simp] theorem State.setC_spsrUnd (c : Bool) : (s.setC c).spsrUnd = s.spsrUnd := rfl
@[simp] theorem State.setC_mem (c : Bool) : (s.setC c).mem = s.mem := rfl
@[simp] theorem State.setC_stored (c : Bool) : (s.setC c).stored = s.stored := rfl
@[simp] theorem State.setC_lines (c : Bool) : (s.setC c).lines = s.lines := rfl
@[simp] theorem State.setC_upcoming (c : Bool) : (s.setC c).upcoming = s.upcoming := rfl
@[simp] theorem State.setC_masters (c : Bool) : (s.setC c).masters = s.masters := rfl
@[simp] theorem State.setC_resetting (c : Bool) : (s.setC c).resetting = s.resetting := rfl
@[simp] theorem State.setC_memoryMap (c : Bool) : (s.setC c).memoryMap = s.memoryMap := rfl
@[simp] theorem State.setC_bigend (c : Bool) : (s.setC c).bigend = s.bigend := rfl
@[simp] theorem State.setC_unallocTraps (c : Bool) : (s.setC c).unallocTraps = s.unallocTraps := rfl
@[simp] theorem State.setC_draws (c : Bool) : (s.setC c).draws = s.draws := rfl

/-! ### `State.setV` -/

@[simp] theorem State.setV_regs (v : Bool) : (s.setV v).regs = s.regs := rfl
@[simp] theorem State.setV_pc (v : Bool) : (s.setV v).pc = s.pc := rfl
@[simp] theorem State.setV_cpsr (v : Bool) : (s.setV v).cpsr = putBit s.cpsr 28 v := rfl
@[simp] theorem State.setV_spsrFiq (v : Bool) : (s.setV v).spsrFiq = s.spsrFiq := rfl
@[simp] theorem State.setV_spsrIrq (v : Bool) : (s.setV v).spsrIrq = s.spsrIrq := rfl
@[simp] theorem State.setV_spsrSvc (v : Bool) : (s.setV v).spsrSvc = s.spsrSvc := rfl
@[simp] theorem State.setV_spsrAbt (v : Bool) : (s.setV v).spsrAbt = s.spsrAbt := rfl
@[simp] theorem State.setV_spsrUnd (v : Bool) : (s.setV v).spsrUnd = s.spsrUnd := rfl
@[simp] theorem State.setV_mem (v : Bool) : (s.setV v).mem = s.mem := rfl
@[simp] theorem State.setV_stored (v : Bool) : (s.setV v).stored = s.stored := rfl
@[simp] theorem State.setV_lines (v : Bool) : (s.setV v).lines = s.lines := rfl
@[simp] theorem State.setV_upcoming (v : Bool) : (s.setV v).upcoming = s.upcoming := rfl
@[simp] theorem State.setV_masters (v : Bool) : (s.setV v).masters = s.masters := rfl
@[simp] theorem State.setV_resetting (v : Bool) : (s.setV v).resetting = s.resetting := rfl
@[simp] theorem State.setV_memoryMap (v : Bool) : (s.setV v).memoryMap = s.memoryMap := rfl
@[simp] theorem State.setV_bigend (v : Bool) : (s.setV v).bigend = s.bigend := rfl
@[simp] theorem State.setV_unallocTraps (v : Bool) : (s.setV v).unallocTraps = s.unallocTraps := rfl
@[simp] theorem State.setV_draws (v : Bool) : (s.setV v).draws = s.draws := rfl

/-! ### `State.setT` -/

@[simp] theorem State.setT_regs (t : Bool) : (s.setT t).regs = s.regs := rfl
@[simp] theorem State.setT_pc (t : Bool) : (s.setT t).pc = s.pc := rfl
@[simp] theorem State.setT_cpsr (t : Bool) : (s.setT t).cpsr = putBit s.cpsr 5 t := rfl
@[simp] theorem State.setT_spsrFiq (t : Bool) : (s.setT t).spsrFiq = s.spsrFiq := rfl
@[simp] theorem State.setT_spsrIrq (t : Bool) : (s.setT t).spsrIrq = s.spsrIrq := rfl
@[simp] theorem State.setT_spsrSvc (t : Bool) : (s.setT t).spsrSvc = s.spsrSvc := rfl
@[simp] theorem State.setT_spsrAbt (t : Bool) : (s.setT t).spsrAbt = s.spsrAbt := rfl
@[simp] theorem State.setT_spsrUnd (t : Bool) : (s.setT t).spsrUnd = s.spsrUnd := rfl
@[simp] theorem State.setT_mem (t : Bool) : (s.setT t).mem = s.mem := rfl
@[simp] theorem State.setT_stored (t : Bool) : (s.setT t).stored = s.stored := rfl
@[simp] theorem State.setT_lines (t : Bool) : (s.setT t).lines = s.lines := rfl
@[simp] theorem State.setT_upcoming (t : Bool) : (s.setT t).upcoming = s.upcoming := rfl
@[simp] theorem State.setT_masters (t : Bool) : (s.setT t).masters = s.masters := rfl
@[simp] theorem State.setT_resetting (t : Bool) : (s.setT t).resetting = s.resetting := rfl
@[simp] theorem State.setT_memoryMap (t : Bool) : (s.setT t).memoryMap = s.memoryMap := rfl
@[simp] theorem State.setT_bigend (t : Bool) : (s.setT t).bigend = s.bigend := rfl
@[simp] theorem State.setT_unallocTraps (t : Bool) : (s.setT t).unallocTraps = s.unallocTraps := rfl
@[simp] theorem State.setT_draws (t : Bool) : (s.setT t).draws = s.draws := rfl

/-! ### `State.branchThumb` -/

@[simp] theorem State.branchThumb_regs (a : Word) : (s.branchThumb a).regs = s.regs := rfl
@[simp] theorem State.branchThumb_pc (a : Word) : (s.branchThumb a).pc = a &&& ~~~1#32 := rfl
@[simp] theorem State.branchThumb_cpsr (a : Word) : (s.branchThumb a).cpsr = s.cpsr := rfl
@[simp] theorem State.branchThumb_spsrFiq (a : Word) : (s.branchThumb a).spsrFiq = s.spsrFiq := rfl
@[simp] theorem State.branchThumb_spsrIrq (a : Word) : (s.branchThumb a).spsrIrq = s.spsrIrq := rfl
@[simp] theorem State.branchThumb_spsrSvc (a : Word) : (s.branchThumb a).spsrSvc = s.spsrSvc := rfl
@[simp] theorem State.branchThumb_spsrAbt (a : Word) : (s.branchThumb a).spsrAbt = s.spsrAbt := rfl
@[simp] theorem State.branchThumb_spsrUnd (a : Word) : (s.branchThumb a).spsrUnd = s.spsrUnd := rfl
@[simp] theorem State.branchThumb_mem (a : Word) : (s.branchThumb a).mem = s.mem := rfl
@[simp] theorem State.branchThumb_stored (a : Word) : (s.branchThumb a).stored = s.stored := rfl
@[simp] theorem State.branchThumb_lines (a : Word) : (s.branchThumb a).lines = s.lines := rfl
@[simp] theorem State.branchThumb_upcoming (a : Word) : (s.branchThumb a).upcoming = s.upcoming := rfl
@[simp] theorem State.branchThumb_masters (a : Word) : (s.branchThumb a).masters = s.masters := rfl
@[simp] theorem State.branchThumb_resetting (a : Word) : (s.branchThumb a).resetting = s.resetting := rfl
@[simp] theorem State.branchThumb_memoryMap (a : Word) : (s.branchThumb a).memoryMap = s.memoryMap := rfl
@[simp] theorem State.branchThumb_bigend (a : Word) : (s.branchThumb a).bigend = s.bigend := rfl
@[simp] theorem State.branchThumb_unallocTraps (a : Word) : (s.branchThumb a).unallocTraps = s.unallocTraps := rfl
@[simp] theorem State.branchThumb_draws (a : Word) : (s.branchThumb a).draws = s.draws := rfl
@[simp] theorem State.branchThumb_flagN (a : Word) : (s.branchThumb a).flagN = s.flagN := rfl
@[simp] theorem State.branchThumb_flagZ (a : Word) : (s.branchThumb a).flagZ = s.flagZ := rfl
@[simp] theorem State.branchThumb_flagC (a : Word) : (s.branchThumb a).flagC = s.flagC := rfl
@[simp] theorem State.branchThumb_flagV (a : Word) : (s.branchThumb a).flagV = s.flagV := rfl
@[simp] theorem State.branchThumb_irqMasked (a : Word) : (s.branchThumb a).irqMasked = s.irqMasked := rfl
@[simp] theorem State.branchThumb_fiqMasked (a : Word) : (s.branchThumb a).fiqMasked = s.fiqMasked := rfl
@[simp] theorem State.branchThumb_thumb (a : Word) : (s.branchThumb a).thumb = s.thumb := rfl
@[simp] theorem State.branchThumb_modeBits (a : Word) : (s.branchThumb a).modeBits = s.modeBits := rfl
@[simp] theorem State.branchThumb_mode (a : Word) : (s.branchThumb a).mode = s.mode := rfl
@[simp] theorem State.branchThumb_userMode (a : Word) : (s.branchThumb a).userMode = s.userMode := rfl

/-! ### `State.branchArm` -/

@[simp] theorem State.branchArm_regs (a : Word) : (s.branchArm a).regs = s.regs := rfl
@[simp] theorem State.branchArm_pc (a : Word) : (s.branchArm a).pc = a &&& ~~~3#32 := rfl
@[simp] theorem State.branchArm_cpsr (a : Word) : (s.branchArm a).cpsr = s.cpsr := rfl
@[simp] theorem State.branchArm_spsrFiq (a : Word) : (s.branchArm a).spsrFiq = s.spsrFiq := rfl
@[simp] theorem State.branchArm_spsrIrq (a : Word) : (s.branchArm a).spsrIrq = s.spsrIrq := rfl
@[simp] theorem State.branchArm_spsrSvc (a : Word) : (s.branchArm a).spsrSvc = s.spsrSvc := rfl
@[simp] theorem State.branchArm_spsrAbt (a : Word) : (s.branchArm a).spsrAbt = s.spsrAbt := rfl
@[simp] theorem State.branchArm_spsrUnd (a : Word) : (s.branchArm a).spsrUnd = s.spsrUnd := rfl
@[simp] theorem State.branchArm_mem (a : Word) : (s.branchArm a).mem = s.mem := rfl
@[simp] theorem State.branchArm_stored (a : Word) : (s.branchArm a).stored = s.stored := rfl
@[simp] theorem State.branchArm_lines (a : Word) : (s.branchArm a).lines = s.lines := rfl
@[simp] theorem State.branchArm_upcoming (a : Word) : (s.branchArm a).upcoming = s.upcoming := rfl
@[simp] theorem State.branchArm_masters (a : Word) : (s.branchArm a).masters = s.masters := rfl
@[simp] theorem State.branchArm_resetting (a : Word) : (s.branchArm a).resetting = s.resetting := rfl
@[simp] theorem State.branchArm_memoryMap (a : Word) : (s.branchArm a).memoryMap = s.memoryMap := rfl
@[simp] theorem State.branchArm_bigend (a : Word) : (s.branchArm a).bigend = s.bigend := rfl
@[simp] theorem State.branchArm_unallocTraps (a : Word) : (s.branchArm a).unallocTraps = s.unallocTraps := rfl
@[simp] theorem State.branchArm_draws (a : Word) : (s.branchArm a).draws = s.draws := rfl
@[simp] theorem State.branchArm_flagN (a : Word) : (s.branchArm a).flagN = s.flagN := rfl
@[simp] theorem State.branchArm_flagZ (a : Word) : (s.branchArm a).flagZ = s.flagZ := rfl
@[simp] theorem State.branchArm_flagC (a : Word) : (s.branchArm a).flagC = s.flagC := rfl
@[simp] theorem State.branchArm_flagV (a : Word) : (s.branchArm a).flagV = s.flagV := rfl
@[simp] theorem State.branchArm_irqMasked (a : Word) : (s.branchArm a).irqMasked = s.irqMasked := rfl
@[simp] theorem State.branchArm_fiqMasked (a : Word) : (s.branchArm a).fiqMasked = s.fiqMasked := rfl
@[simp] theorem State.branchArm_thumb (a : Word) : (s.branchArm a).thumb = s.thumb := rfl
@[simp] theorem State.branchArm_modeBits (a : Word) : (s.branchArm a).modeBits = s.modeBits := rfl
@[simp] theorem State.branchArm_mode (a : Word) : (s.branchArm a).mode = s.mode := rfl
@[simp] theorem State.branchArm_userMode (a : Word) : (s.branchArm a).userMode = s.userMode := rfl

/-! ### `State.advanceThumb` -/

@[simp] theorem State.advanceThumb_regs : (s.advanceThumb).regs = s.regs := rfl
@[simp] theorem State.advanceThumb_pc : (s.advanceThumb).pc = s.pc + 2#32 := rfl
@[simp] theorem State.advanceThumb_cpsr : (s.advanceThumb).cpsr = s.cpsr := rfl
@[simp] theorem State.advanceThumb_spsrFiq : (s.advanceThumb).spsrFiq = s.spsrFiq := rfl
@[simp] theorem State.advanceThumb_spsrIrq : (s.advanceThumb).spsrIrq = s.spsrIrq := rfl
@[simp] theorem State.advanceThumb_spsrSvc : (s.advanceThumb).spsrSvc = s.spsrSvc := rfl
@[simp] theorem State.advanceThumb_spsrAbt : (s.advanceThumb).spsrAbt = s.spsrAbt := rfl
@[simp] theorem State.advanceThumb_spsrUnd : (s.advanceThumb).spsrUnd = s.spsrUnd := rfl
@[simp] theorem State.advanceThumb_mem : (s.advanceThumb).mem = s.mem := rfl
@[simp] theorem State.advanceThumb_stored : (s.advanceThumb).stored = s.stored := rfl
@[simp] theorem State.advanceThumb_lines : (s.advanceThumb).lines = s.lines := rfl
@[simp] theorem State.advanceThumb_upcoming : (s.advanceThumb).upcoming = s.upcoming := rfl
@[simp] theorem State.advanceThumb_masters : (s.advanceThumb).masters = s.masters := rfl
@[simp] theorem State.advanceThumb_resetting : (s.advanceThumb).resetting = s.resetting := rfl
@[simp] theorem State.advanceThumb_memoryMap : (s.advanceThumb).memoryMap = s.memoryMap := rfl
@[simp] theorem State.advanceThumb_bigend : (s.advanceThumb).bigend = s.bigend := rfl
@[simp] theorem State.advanceThumb_unallocTraps : (s.advanceThumb).unallocTraps = s.unallocTraps := rfl
@[simp] theorem State.advanceThumb_draws : (s.advanceThumb).draws = s.draws := rfl
@[simp] theorem State.advanceThumb_flagN : (s.advanceThumb).flagN = s.flagN := rfl
@[simp] theorem State.advanceThumb_flagZ : (s.advanceThumb).flagZ = s.flagZ := rfl
@[simp] theorem State.advanceThumb_flagC : (s.advanceThumb).flagC = s.flagC := rfl
@[simp] theorem State.advanceThumb_flagV : (s.advanceThumb).flagV = s.flagV := rfl
@[simp] theorem State.advanceThumb_irqMasked : (s.advanceThumb).irqMasked = s.irqMasked := rfl
@[simp] theorem State.advanceThumb_fiqMasked : (s.advanceThumb).fiqMasked = s.fiqMasked := rfl
@[simp] theorem State.advanceThumb_thumb : (s.advanceThumb).thumb = s.thumb := rfl
@[simp] theorem State.advanceThumb_modeBits : (s.advanceThumb).modeBits = s.modeBits := rfl
@[simp] theorem State.advanceThumb_mode : (s.advanceThumb).mode = s.mode := rfl
@[simp] theorem State.advanceThumb_userMode : (s.advanceThumb).userMode = s.userMode := rfl

/-! ### `State.advanceArm` -/

@[simp] theorem State.advanceArm_regs : (s.advanceArm).regs = s.regs := rfl
@[simp] theorem State.advanceArm_pc : (s.advanceArm).pc = s.pc + 4#32 := rfl
@[simp] theorem State.advanceArm_cpsr : (s.advanceArm).cpsr = s.cpsr := rfl
@[simp] theorem State.advanceArm_spsrFiq : (s.advanceArm).spsrFiq = s.spsrFiq := rfl
@[simp] theorem State.advanceArm_spsrIrq : (s.advanceArm).spsrIrq = s.spsrIrq := rfl
@[simp] theorem State.advanceArm_spsrSvc : (s.advanceArm).spsrSvc = s.spsrSvc := rfl
@[simp] theorem State.advanceArm_spsrAbt : (s.advanceArm).spsrAbt = s.spsrAbt := rfl
@[simp] theorem State.advanceArm_spsrUnd : (s.advanceArm).spsrUnd = s.spsrUnd := rfl
@[simp] theorem State.advanceArm_mem : (s.advanceArm).mem = s.mem := rfl
@[simp] theorem State.advanceArm_stored : (s.advanceArm).stored = s.stored := rfl
@[simp] theorem State.advanceArm_lines : (s.advanceArm).lines = s.lines := rfl
@[simp] theorem State.advanceArm_upcoming : (s.advanceArm).upcoming = s.upcoming := rfl
@[simp] theorem State.advanceArm_masters : (s.advanceArm).masters = s.masters := rfl
@[simp] theorem State.advanceArm_resetting : (s.advanceArm).resetting = s.resetting := rfl
@[simp] theorem State.advanceArm_memoryMap : (s.advanceArm).memoryMap = s.memoryMap := rfl
@[simp] theorem State.advanceArm_bigend : (s.advanceArm).bigend = s.bigend := rfl
@[simp] theorem State.advanceArm_unallocTraps : (s.advanceArm).unallocTraps = s.unallocTraps := rfl
@[simp] theorem State.advanceArm_draws : (s.advanceArm).draws = s.draws := rfl
@[simp] theorem State.advanceArm_flagN : (s.advanceArm).flagN = s.flagN := rfl
@[simp] theorem State.advanceArm_flagZ : (s.advanceArm).flagZ = s.flagZ := rfl
@[simp] theorem State.advanceArm_flagC : (s.advanceArm).flagC = s.flagC := rfl
@[simp] theorem State.advanceArm_flagV : (s.advanceArm).flagV = s.flagV := rfl
@[simp] theorem State.advanceArm_irqMasked : (s.advanceArm).irqMasked = s.irqMasked := rfl
@[simp] theorem State.advanceArm_fiqMasked : (s.advanceArm).fiqMasked = s.fiqMasked := rfl
@[simp] theorem State.advanceArm_thumb : (s.advanceArm).thumb = s.thumb := rfl
@[simp] theorem State.advanceArm_modeBits : (s.advanceArm).modeBits = s.modeBits := rfl
@[simp] theorem State.advanceArm_mode : (s.advanceArm).mode = s.mode := rfl
@[simp] theorem State.advanceArm_userMode : (s.advanceArm).userMode = s.userMode := rfl

/-! ### `State.writeByte` -/

@[simp] theorem State.writeByte_regs (a : Word) (b : Byte) : (s.writeByte a b).regs = s.regs := rfl
@[simp] theorem State.writeByte_pc (a : Word) (b : Byte) : (s.writeByte a b).pc = s.pc := rfl
@[simp] theorem State.writeByte_cpsr (a : Word) (b : Byte) : (s.writeByte a b).cpsr = s.cpsr := rfl
@[simp] theorem State.writeByte_spsrFiq (a : Word) (b : Byte) : (s.writeByte a b).spsrFiq = s.spsrFiq := rfl
@[simp] theorem State.writeByte_spsrIrq (a : Word) (b : Byte) : (s.writeByte a b).spsrIrq = s.spsrIrq := rfl
@[simp] theorem State.writeByte_spsrSvc (a : Word) (b : Byte) : (s.writeByte a b).spsrSvc = s.spsrSvc := rfl
@[simp] theorem State.writeByte_spsrAbt (a : Word) (b : Byte) : (s.writeByte a b).spsrAbt = s.spsrAbt := rfl
@[simp] theorem State.writeByte_spsrUnd (a : Word) (b : Byte) : (s.writeByte a b).spsrUnd = s.spsrUnd := rfl
@[simp] theorem State.writeByte_mem (a : Word) (b : Byte) : (s.writeByte a b).mem = writeCell s.mem a.toNat b := rfl
@[simp] theorem State.writeByte_stored (a : Word) (b : Byte) : (s.writeByte a b).stored = insertAddr s.stored a.toNat := rfl
@[simp] theorem State.writeByte_lines (a : Word) (b : Byte) : (s.writeByte a b).lines = s.lines := rfl
@[simp] theorem State.writeByte_upcoming (a : Word) (b : Byte) : (s.writeByte a b).upcoming = s.upcoming := rfl
@[simp] theorem State.writeByte_masters (a : Word) (b : Byte) : (s.writeByte a b).masters = s.masters := rfl
@[simp] theorem State.writeByte_resetting (a : Word) (b : Byte) : (s.writeByte a b).resetting = s.resetting := rfl
@[simp] theorem State.writeByte_memoryMap (a : Word) (b : Byte) : (s.writeByte a b).memoryMap = s.memoryMap := rfl
@[simp] theorem State.writeByte_bigend (a : Word) (b : Byte) : (s.writeByte a b).bigend = s.bigend := rfl
@[simp] theorem State.writeByte_unallocTraps (a : Word) (b : Byte) : (s.writeByte a b).unallocTraps = s.unallocTraps := rfl
@[simp] theorem State.writeByte_draws (a : Word) (b : Byte) : (s.writeByte a b).draws = s.draws := rfl
@[simp] theorem State.writeByte_flagN (a : Word) (b : Byte) : (s.writeByte a b).flagN = s.flagN := rfl
@[simp] theorem State.writeByte_flagZ (a : Word) (b : Byte) : (s.writeByte a b).flagZ = s.flagZ := rfl
@[simp] theorem State.writeByte_flagC (a : Word) (b : Byte) : (s.writeByte a b).flagC = s.flagC := rfl
@[simp] theorem State.writeByte_flagV (a : Word) (b : Byte) : (s.writeByte a b).flagV = s.flagV := rfl
@[simp] theorem State.writeByte_irqMasked (a : Word) (b : Byte) : (s.writeByte a b).irqMasked = s.irqMasked := rfl
@[simp] theorem State.writeByte_fiqMasked (a : Word) (b : Byte) : (s.writeByte a b).fiqMasked = s.fiqMasked := rfl
@[simp] theorem State.writeByte_thumb (a : Word) (b : Byte) : (s.writeByte a b).thumb = s.thumb := rfl
@[simp] theorem State.writeByte_modeBits (a : Word) (b : Byte) : (s.writeByte a b).modeBits = s.modeBits := rfl
@[simp] theorem State.writeByte_mode (a : Word) (b : Byte) : (s.writeByte a b).mode = s.mode := rfl
@[simp] theorem State.writeByte_userMode (a : Word) (b : Byte) : (s.writeByte a b).userMode = s.userMode := rfl

/-! ### `State.drew` -/

@[simp] theorem State.drew_regs : (s.drew).regs = s.regs := rfl
@[simp] theorem State.drew_pc : (s.drew).pc = s.pc := rfl
@[simp] theorem State.drew_cpsr : (s.drew).cpsr = s.cpsr := rfl
@[simp] theorem State.drew_spsrFiq : (s.drew).spsrFiq = s.spsrFiq := rfl
@[simp] theorem State.drew_spsrIrq : (s.drew).spsrIrq = s.spsrIrq := rfl
@[simp] theorem State.drew_spsrSvc : (s.drew).spsrSvc = s.spsrSvc := rfl
@[simp] theorem State.drew_spsrAbt : (s.drew).spsrAbt = s.spsrAbt := rfl
@[simp] theorem State.drew_spsrUnd : (s.drew).spsrUnd = s.spsrUnd := rfl
@[simp] theorem State.drew_mem : (s.drew).mem = s.mem := rfl
@[simp] theorem State.drew_stored : (s.drew).stored = s.stored := rfl
@[simp] theorem State.drew_lines : (s.drew).lines = s.lines := rfl
@[simp] theorem State.drew_upcoming : (s.drew).upcoming = s.upcoming := rfl
@[simp] theorem State.drew_masters : (s.drew).masters = s.masters := rfl
@[simp] theorem State.drew_resetting : (s.drew).resetting = s.resetting := rfl
@[simp] theorem State.drew_memoryMap : (s.drew).memoryMap = s.memoryMap := rfl
@[simp] theorem State.drew_bigend : (s.drew).bigend = s.bigend := rfl
@[simp] theorem State.drew_unallocTraps : (s.drew).unallocTraps = s.unallocTraps := rfl
@[simp] theorem State.drew_draws : (s.drew).draws = s.draws + 1 := rfl
@[simp] theorem State.drew_flagN : (s.drew).flagN = s.flagN := rfl
@[simp] theorem State.drew_flagZ : (s.drew).flagZ = s.flagZ := rfl
@[simp] theorem State.drew_flagC : (s.drew).flagC = s.flagC := rfl
@[simp] theorem State.drew_flagV : (s.drew).flagV = s.flagV := rfl
@[simp] theorem State.drew_irqMasked : (s.drew).irqMasked = s.irqMasked := rfl
@[simp] theorem State.drew_fiqMasked : (s.drew).fiqMasked = s.fiqMasked := rfl
@[simp] theorem State.drew_thumb : (s.drew).thumb = s.thumb := rfl
@[simp] theorem State.drew_modeBits : (s.drew).modeBits = s.modeBits := rfl
@[simp] theorem State.drew_mode : (s.drew).mode = s.mode := rfl
@[simp] theorem State.drew_userMode : (s.drew).userMode = s.userMode := rfl

/-! ### `State.busWrites` -/

@[simp] theorem State.busWrites_regs (ws : List BusWrite) : (s.busWrites ws).regs = s.regs := rfl
@[simp] theorem State.busWrites_pc (ws : List BusWrite) : (s.busWrites ws).pc = s.pc := rfl
@[simp] theorem State.busWrites_cpsr (ws : List BusWrite) : (s.busWrites ws).cpsr = s.cpsr := rfl
@[simp] theorem State.busWrites_spsrFiq (ws : List BusWrite) : (s.busWrites ws).spsrFiq = s.spsrFiq := rfl
@[simp] theorem State.busWrites_spsrIrq (ws : List BusWrite) : (s.busWrites ws).spsrIrq = s.spsrIrq := rfl
@[simp] theorem State.busWrites_spsrSvc (ws : List BusWrite) : (s.busWrites ws).spsrSvc = s.spsrSvc := rfl
@[simp] theorem State.busWrites_spsrAbt (ws : List BusWrite) : (s.busWrites ws).spsrAbt = s.spsrAbt := rfl
@[simp] theorem State.busWrites_spsrUnd (ws : List BusWrite) : (s.busWrites ws).spsrUnd = s.spsrUnd := rfl
@[simp] theorem State.busWrites_mem (ws : List BusWrite) : (s.busWrites ws).mem = ws.foldl (fun m w => writeCell m w.addr.toNat w.byte) s.mem := rfl
@[simp] theorem State.busWrites_stored (ws : List BusWrite) : (s.busWrites ws).stored = s.stored := rfl
@[simp] theorem State.busWrites_lines (ws : List BusWrite) : (s.busWrites ws).lines = s.lines := rfl
@[simp] theorem State.busWrites_upcoming (ws : List BusWrite) : (s.busWrites ws).upcoming = s.upcoming := rfl
@[simp] theorem State.busWrites_masters (ws : List BusWrite) : (s.busWrites ws).masters = s.masters := rfl
@[simp] theorem State.busWrites_resetting (ws : List BusWrite) : (s.busWrites ws).resetting = s.resetting := rfl
@[simp] theorem State.busWrites_memoryMap (ws : List BusWrite) : (s.busWrites ws).memoryMap = s.memoryMap := rfl
@[simp] theorem State.busWrites_bigend (ws : List BusWrite) : (s.busWrites ws).bigend = s.bigend := rfl
@[simp] theorem State.busWrites_unallocTraps (ws : List BusWrite) : (s.busWrites ws).unallocTraps = s.unallocTraps := rfl
@[simp] theorem State.busWrites_draws (ws : List BusWrite) : (s.busWrites ws).draws = s.draws := rfl
@[simp] theorem State.busWrites_flagN (ws : List BusWrite) : (s.busWrites ws).flagN = s.flagN := rfl
@[simp] theorem State.busWrites_flagZ (ws : List BusWrite) : (s.busWrites ws).flagZ = s.flagZ := rfl
@[simp] theorem State.busWrites_flagC (ws : List BusWrite) : (s.busWrites ws).flagC = s.flagC := rfl
@[simp] theorem State.busWrites_flagV (ws : List BusWrite) : (s.busWrites ws).flagV = s.flagV := rfl
@[simp] theorem State.busWrites_irqMasked (ws : List BusWrite) : (s.busWrites ws).irqMasked = s.irqMasked := rfl
@[simp] theorem State.busWrites_fiqMasked (ws : List BusWrite) : (s.busWrites ws).fiqMasked = s.fiqMasked := rfl
@[simp] theorem State.busWrites_thumb (ws : List BusWrite) : (s.busWrites ws).thumb = s.thumb := rfl
@[simp] theorem State.busWrites_modeBits (ws : List BusWrite) : (s.busWrites ws).modeBits = s.modeBits := rfl
@[simp] theorem State.busWrites_mode (ws : List BusWrite) : (s.busWrites ws).mode = s.mode := rfl
@[simp] theorem State.busWrites_userMode (ws : List BusWrite) : (s.busWrites ws).userMode = s.userMode := rfl

/-! ### `State.midBus` -/

@[simp] theorem State.midBus_regs : (s.midBus).regs = s.regs := rfl
@[simp] theorem State.midBus_pc : (s.midBus).pc = s.pc := rfl
@[simp] theorem State.midBus_cpsr : (s.midBus).cpsr = s.cpsr := rfl
@[simp] theorem State.midBus_spsrFiq : (s.midBus).spsrFiq = s.spsrFiq := rfl
@[simp] theorem State.midBus_spsrIrq : (s.midBus).spsrIrq = s.spsrIrq := rfl
@[simp] theorem State.midBus_spsrSvc : (s.midBus).spsrSvc = s.spsrSvc := rfl
@[simp] theorem State.midBus_spsrAbt : (s.midBus).spsrAbt = s.spsrAbt := rfl
@[simp] theorem State.midBus_spsrUnd : (s.midBus).spsrUnd = s.spsrUnd := rfl
@[simp] theorem State.midBus_mem : (s.midBus).mem = s.turn.between.foldl (fun m w => writeCell m w.addr.toNat w.byte) s.mem := rfl
@[simp] theorem State.midBus_stored : (s.midBus).stored = s.stored := rfl
@[simp] theorem State.midBus_lines : (s.midBus).lines = s.lines := rfl
@[simp] theorem State.midBus_upcoming : (s.midBus).upcoming = s.upcoming := rfl
@[simp] theorem State.midBus_masters : (s.midBus).masters = s.masters := rfl
@[simp] theorem State.midBus_resetting : (s.midBus).resetting = s.resetting := rfl
@[simp] theorem State.midBus_memoryMap : (s.midBus).memoryMap = s.memoryMap := rfl
@[simp] theorem State.midBus_bigend : (s.midBus).bigend = s.bigend := rfl
@[simp] theorem State.midBus_unallocTraps : (s.midBus).unallocTraps = s.unallocTraps := rfl
@[simp] theorem State.midBus_draws : (s.midBus).draws = s.draws := rfl
@[simp] theorem State.midBus_flagN : (s.midBus).flagN = s.flagN := rfl
@[simp] theorem State.midBus_flagZ : (s.midBus).flagZ = s.flagZ := rfl
@[simp] theorem State.midBus_flagC : (s.midBus).flagC = s.flagC := rfl
@[simp] theorem State.midBus_flagV : (s.midBus).flagV = s.flagV := rfl
@[simp] theorem State.midBus_irqMasked : (s.midBus).irqMasked = s.irqMasked := rfl
@[simp] theorem State.midBus_fiqMasked : (s.midBus).fiqMasked = s.fiqMasked := rfl
@[simp] theorem State.midBus_thumb : (s.midBus).thumb = s.thumb := rfl
@[simp] theorem State.midBus_modeBits : (s.midBus).modeBits = s.modeBits := rfl
@[simp] theorem State.midBus_mode : (s.midBus).mode = s.mode := rfl
@[simp] theorem State.midBus_userMode : (s.midBus).userMode = s.userMode := rfl

end Sys2Proof.Machine
end

