-- ==== Sys2Proof/Laws/Flags.lean ====
section
/-! SUPPORT. The bits of a status word after each write of one of them (R35, R43), and what `addWithCarry` computes (R40). -/

namespace Sys2Proof.Machine

/-! ### `putBit` and `putM` -/

/-- A bit written is the one read back there, and no other bit moves. -/
theorem getLsbD_putBit (w : Word) (i j : Nat) (b : Bool) (hi : i < 32) :
    (putBit w i b).getLsbD j = if j = i then b else w.getLsbD j := by
  cases b <;> by_cases hj : j = i <;> by_cases h : j < 32 <;> simp_all [putBit]

/-- `getLsbD_putBit` in the spelling of an indexed bit. -/
theorem getElem_putBit (w : Word) (i j : Nat) (b : Bool) (hi : i < 32) (hj : j < 32) :
    (putBit w i b)[j] = if j = i then b else w[j] := by
  have := getLsbD_putBit w i j b hi
  rwa [BitVec.getLsbD_eq_getElem hj, BitVec.getLsbD_eq_getElem hj] at this

/-- The mode bits written, seen bit by bit. -/
theorem getLsbD_putM (w : Word) (m : BitVec 5) (j : Nat) :
    (putM w m).getLsbD j = if j < 5 then m.getLsbD j else w.getLsbD j := by
  unfold putM
  rw [BitVec.getLsbD_append]
  by_cases h : j < 5
  · simp [h]
  · by_cases h2 : j < 32
    · have e : 5 + (j - 5) = j := by omega
      simp [h, BitVec.getLsbD_extractLsb', e]; omega
    · simp [h, BitVec.getLsbD_extractLsb', BitVec.getLsbD_of_ge _ j (by omega : 32 ≤ j)]; omega

/-- `getLsbD_putM` in the spelling of an indexed bit. -/
theorem getElem_putM (w : Word) (m : BitVec 5) (j : Nat) (h5 : 5 ≤ j) (hj : j < 32) : (putM w m)[j] = w[j] := by
  have := getLsbD_putM w m j
  rw [if_neg (by omega)] at this
  rwa [BitVec.getLsbD_eq_getElem hj, BitVec.getLsbD_eq_getElem hj] at this

/-- Two 5-bit fields at the bottom of a word agree when the word's bits below 5 do. -/
theorem psrM_eq_of_bits {w v : Word} (h : ∀ j, j < 5 → w.getLsbD j = v.getLsbD j) : psrM w = psrM v := by
  apply BitVec.eq_of_getLsbD_eq
  intro i hi
  simp [psrM, hi, h i hi]

@[simp] theorem psrM_putBit (w : Word) (i : Nat) (b : Bool) (h : i < 32) (h5 : 5 ≤ i) : psrM (putBit w i b) = psrM w :=
  psrM_eq_of_bits fun j hj => by rw [getLsbD_putBit _ _ _ _ h]; simp; omega

@[simp] theorem psrM_putM (w : Word) (m : BitVec 5) : psrM (putM w m) = m := by
  apply BitVec.eq_of_getLsbD_eq
  intro i hi
  simp [psrM, getLsbD_putM, hi]

/-! ### The accessors of a state after each flag write -/

variable (s : State)

@[simp] theorem State.setNZ_flagN (r : Word) : (s.setNZ r).flagN = r.getLsbD 31 := by
  simp [State.flagN, psrN, getElem_putBit]
@[simp] theorem State.setNZ_flagZ (r : Word) : (s.setNZ r).flagZ = (r == 0#32) := by
  simp [State.flagZ, psrZ, getElem_putBit]
@[simp] theorem State.setNZ_flagC (r : Word) : (s.setNZ r).flagC = s.flagC := by
  simp [State.flagC, psrC, getElem_putBit]
@[simp] theorem State.setNZ_flagV (r : Word) : (s.setNZ r).flagV = s.flagV := by
  simp [State.flagV, psrV, getElem_putBit]
@[simp] theorem State.setNZ_irqMasked (r : Word) : (s.setNZ r).irqMasked = s.irqMasked := by
  simp [State.irqMasked, psrI, getElem_putBit]
@[simp] theorem State.setNZ_fiqMasked (r : Word) : (s.setNZ r).fiqMasked = s.fiqMasked := by
  simp [State.fiqMasked, psrF, getElem_putBit]
@[simp] theorem State.setNZ_thumb (r : Word) : (s.setNZ r).thumb = s.thumb := by
  simp [State.thumb, psrT, getElem_putBit]
@[simp] theorem State.setNZ_modeBits (r : Word) : (s.setNZ r).modeBits = s.modeBits := by
  simp [State.modeBits]
@[simp] theorem State.setNZ_mode (r : Word) : (s.setNZ r).mode = s.mode := by simp [State.mode]

@[simp] theorem State.setC_flagN (c : Bool) : (s.setC c).flagN = s.flagN := by
  simp [State.flagN, psrN, getElem_putBit]
@[simp] theorem State.setC_flagZ (c : Bool) : (s.setC c).flagZ = s.flagZ := by
  simp [State.flagZ, psrZ, getElem_putBit]
@[simp] theorem State.setC_flagC (c : Bool) : (s.setC c).flagC = c := by
  simp [State.flagC, psrC, getElem_putBit]
@[simp] theorem State.setC_flagV (c : Bool) : (s.setC c).flagV = s.flagV := by
  simp [State.flagV, psrV, getElem_putBit]
@[simp] theorem State.setC_irqMasked (c : Bool) : (s.setC c).irqMasked = s.irqMasked := by
  simp [State.irqMasked, psrI, getElem_putBit]
@[simp] theorem State.setC_fiqMasked (c : Bool) : (s.setC c).fiqMasked = s.fiqMasked := by
  simp [State.fiqMasked, psrF, getElem_putBit]
@[simp] theorem State.setC_thumb (c : Bool) : (s.setC c).thumb = s.thumb := by
  simp [State.thumb, psrT, getElem_putBit]
@[simp] theorem State.setC_modeBits (c : Bool) : (s.setC c).modeBits = s.modeBits := by simp [State.modeBits]
@[simp] theorem State.setC_mode (c : Bool) : (s.setC c).mode = s.mode := by simp [State.mode]

@[simp] theorem State.setV_flagN (v : Bool) : (s.setV v).flagN = s.flagN := by
  simp [State.flagN, psrN, getElem_putBit]
@[simp] theorem State.setV_flagZ (v : Bool) : (s.setV v).flagZ = s.flagZ := by
  simp [State.flagZ, psrZ, getElem_putBit]
@[simp] theorem State.setV_flagC (v : Bool) : (s.setV v).flagC = s.flagC := by
  simp [State.flagC, psrC, getElem_putBit]
@[simp] theorem State.setV_flagV (v : Bool) : (s.setV v).flagV = v := by
  simp [State.flagV, psrV, getElem_putBit]
@[simp] theorem State.setV_irqMasked (v : Bool) : (s.setV v).irqMasked = s.irqMasked := by
  simp [State.irqMasked, psrI, getElem_putBit]
@[simp] theorem State.setV_fiqMasked (v : Bool) : (s.setV v).fiqMasked = s.fiqMasked := by
  simp [State.fiqMasked, psrF, getElem_putBit]
@[simp] theorem State.setV_thumb (v : Bool) : (s.setV v).thumb = s.thumb := by
  simp [State.thumb, psrT, getElem_putBit]
@[simp] theorem State.setV_modeBits (v : Bool) : (s.setV v).modeBits = s.modeBits := by simp [State.modeBits]
@[simp] theorem State.setV_mode (v : Bool) : (s.setV v).mode = s.mode := by simp [State.mode]

@[simp] theorem State.setT_flagN (t : Bool) : (s.setT t).flagN = s.flagN := by
  simp [State.flagN, psrN, getElem_putBit]
@[simp] theorem State.setT_flagZ (t : Bool) : (s.setT t).flagZ = s.flagZ := by
  simp [State.flagZ, psrZ, getElem_putBit]
@[simp] theorem State.setT_flagC (t : Bool) : (s.setT t).flagC = s.flagC := by
  simp [State.flagC, psrC, getElem_putBit]
@[simp] theorem State.setT_flagV (t : Bool) : (s.setT t).flagV = s.flagV := by
  simp [State.flagV, psrV, getElem_putBit]
@[simp] theorem State.setT_irqMasked (t : Bool) : (s.setT t).irqMasked = s.irqMasked := by
  simp [State.irqMasked, psrI, getElem_putBit]
@[simp] theorem State.setT_fiqMasked (t : Bool) : (s.setT t).fiqMasked = s.fiqMasked := by
  simp [State.fiqMasked, psrF, getElem_putBit]
@[simp] theorem State.setT_thumb (t : Bool) : (s.setT t).thumb = t := by
  simp [State.thumb, psrT, getElem_putBit]
@[simp] theorem State.setT_modeBits (t : Bool) : (s.setT t).modeBits = s.modeBits := by simp [State.modeBits]
@[simp] theorem State.setT_mode (t : Bool) : (s.setT t).mode = s.mode := by simp [State.mode]

/-! ### `addWithCarry` (R40) -/

@[simp] theorem addWithCarry_value (a b : Word) (c : Bool) :
    (addWithCarry a b c).value = a + b + BitVec.ofNat 32 c.toNat := by
  apply BitVec.eq_of_toNat_eq
  simp [addWithCarry, BitVec.toNat_add]

/-- The value of `AddWithCarry(a, NOT b, 1)` is the difference (R40). -/
theorem addWithCarry_sub_value (a b : Word) : (addWithCarry a (~~~b) true).value = a - b := by
  simp only [addWithCarry_value, Bool.toNat_true]
  apply BitVec.eq_of_toNat_eq
  simp [BitVec.toNat_add, BitVec.toNat_sub, BitVec.toNat_not]
  have := a.isLt; have := b.isLt
  omega

/-- C of `AddWithCarry(a, NOT b, 1)` is NOT borrow (R40). -/
theorem addWithCarry_sub_carry (a b : Word) :
    (addWithCarry a (~~~b) true).carry = decide (b.toNat ≤ a.toNat) := by
  have := a.isLt; have := b.isLt
  simp only [addWithCarry, BitVec.toNat_not, Bool.toNat_true, decide_eq_decide]
  omega

end Sys2Proof.Machine
end

