-- ==== Sys2Proof/Laws/Registers.lean ====
section
/-! SUPPORT. The register file: which physical register a number names (R22, R23), reading and writing one. -/

namespace Sys2Proof.Machine

/-! ### Physical registers -/

theorem Bank.index_inj {b c : Bank} (h : b.index = c.index) : b = c := by
  cases b <;> cases c <;> first | rfl | exact absurd h (by decide)

/-- Two physical registers at one place of `State.regs` are one register. -/
theorem PhysReg.index_inj {p q : PhysReg} (h : p.index = q.index) : p = q := by
  have bank (b : Bank) : b.index.val < 6 := b.index.isLt
  cases p with
  | lo i => cases q <;> simp [PhysReg.index, Fin.ext_iff] at h ⊢ <;> omega
  | mid i => cases q <;> simp [PhysReg.index, Fin.ext_iff] at h ⊢ <;> omega
  | midFiq i => cases q <;> simp [PhysReg.index, Fin.ext_iff] at h ⊢ <;> omega
  | r13 b =>
    cases q with
    | r13 c => simp [PhysReg.index] at h; exact congrArg _ (Bank.index_inj (Fin.ext h))
    | r14 c => have := bank b; simp [PhysReg.index] at h; omega
    | lo i => simp [PhysReg.index] at h; omega
    | mid i => simp [PhysReg.index] at h; omega
    | midFiq i => simp [PhysReg.index] at h; omega
  | r14 b =>
    cases q with
    | r14 c => simp [PhysReg.index] at h; exact congrArg _ (Bank.index_inj (Fin.ext h))
    | r13 c => have := bank c; simp [PhysReg.index] at h; omega
    | lo i => simp [PhysReg.index] at h; omega
    | mid i => simp [PhysReg.index] at h; omega
    | midFiq i => simp [PhysReg.index] at h; omega

variable (s : State)

/-- A register written is the one that changes. -/
theorem State.getPhys_setPhys (p q : PhysReg) (v : Word) :
    (s.setPhys p v).getPhys q = if q = p then v else s.getPhys q := by
  unfold State.getPhys
  simp only [State.setPhys_regs, Vector.getElem_set]
  by_cases h : q = p
  · simp [h]
  · have : p.index.val ≠ q.index.val := fun e => h (PhysReg.index_inj (Fin.ext e)).symm
    simp [h, this]

@[simp] theorem State.getPhys_setPhys_self (p : PhysReg) (v : Word) : (s.setPhys p v).getPhys p = v := by
  simp [State.getPhys_setPhys]

theorem State.getPhys_setPhys_ne {p q : PhysReg} (v : Word) (h : q ≠ p) :
    (s.setPhys p v).getPhys q = s.getPhys q := by
  simp [State.getPhys_setPhys, h]

@[simp] theorem State.getPhys_drew (p : PhysReg) : s.drew.getPhys p = s.getPhys p := rfl
@[simp] theorem State.getPhys_busWrites (p : PhysReg) (ws : List BusWrite) : (s.busWrites ws).getPhys p = s.getPhys p := rfl
@[simp] theorem State.getPhys_midBus (p : PhysReg) : s.midBus.getPhys p = s.getPhys p := rfl
@[simp] theorem State.getPhys_setNZ (p : PhysReg) (r : Word) : (s.setNZ r).getPhys p = s.getPhys p := rfl
@[simp] theorem State.getPhys_setC (p : PhysReg) (c : Bool) : (s.setC c).getPhys p = s.getPhys p := rfl
@[simp] theorem State.getPhys_setV (p : PhysReg) (v : Bool) : (s.setV v).getPhys p = s.getPhys p := rfl
@[simp] theorem State.getPhys_setT (p : PhysReg) (t : Bool) : (s.setT t).getPhys p = s.getPhys p := rfl
@[simp] theorem State.getPhys_branchThumb (p : PhysReg) (a : Word) : (s.branchThumb a).getPhys p = s.getPhys p := rfl
@[simp] theorem State.getPhys_branchArm (p : PhysReg) (a : Word) : (s.branchArm a).getPhys p = s.getPhys p := rfl
@[simp] theorem State.getPhys_advanceThumb (p : PhysReg) : s.advanceThumb.getPhys p = s.getPhys p := rfl
@[simp] theorem State.getPhys_advanceArm (p : PhysReg) : s.advanceArm.getPhys p = s.getPhys p := rfl
@[simp] theorem State.getPhys_writeByte (p : PhysReg) (a : Word) (b : Byte) :
    (s.writeByte a b).getPhys p = s.getPhys p := rfl

/-! ### Register numbers (R22, R23) -/

@[simp] theorem phys_loReg (m : Option Mode) (r : BitVec 3) : phys m (loReg r) = some (.lo ⟨r.toNat, r.isLt⟩) := by
  have := r.isLt
  simp [phys, loReg, this]

@[simp] theorem phys_spReg (m : Option Mode) : phys m spReg = some (.r13 ((m.map Mode.bank).getD .usr)) := by
  simp [phys, spReg]

@[simp] theorem phys_lrReg (m : Option Mode) : phys m lrReg = some (.r14 ((m.map Mode.bank).getD .usr)) := by
  simp [phys, lrReg]

@[simp] theorem phys_pcReg (m : Option Mode) : phys m pcReg = none := by simp [phys, pcReg]

/-- Only number 15 names no physical register: it is the PC. -/
theorem phys_eq_none {m : Option Mode} {i : RegNum} : phys m i = none ↔ i = pcReg := by
  constructor
  · intro h
    have := i.isLt
    unfold phys at h
    split at h
    · cases h
    · split at h
      · split at h <;> cases h
      · split at h
        · cases h
        · split at h
          · cases h
          · apply Fin.ext; simp [pcReg]; omega
  · rintro rfl; simp

/-- Within one mode, different numbers name different physical registers. -/
theorem phys_inj {m : Option Mode} {i j : RegNum} {p : PhysReg} (hi : phys m i = some p) (hj : phys m j = some p) :
    i = j := by
  have hi' := i.isLt
  have hj' := j.isLt
  apply Fin.ext
  unfold phys at hi hj
  repeat' split at hi
  all_goals repeat' split at hj
  all_goals simp_all
  all_goals first
    | omega
    | (obtain rfl := hi; simp [Fin.ext_iff] at hj; omega)
    | (subst hi; simp_all; try omega)

theorem State.readReg_loReg (r : BitVec 3) : s.readReg (loReg r) = s.getPhys (.lo ⟨r.toNat, r.isLt⟩) := by
  simp [State.readReg]

theorem State.writeReg_loReg (r : BitVec 3) (v : Word) :
    s.writeReg (loReg r) v = s.setPhys (.lo ⟨r.toNat, r.isLt⟩) v := by
  simp [State.writeReg]

theorem State.readReg_pcReg : s.readReg pcReg = s.readPc := by simp [State.readReg]

theorem State.writeReg_pcReg (v : Word) : s.writeReg pcReg v = s.branch v := by simp [State.writeReg]

theorem State.readReg_of_phys {i : RegNum} {p : PhysReg} (h : phys s.mode i = some p) : s.readReg i = s.getPhys p := by
  simp [State.readReg, h]

theorem State.writeReg_of_phys {i : RegNum} {p : PhysReg} (v : Word) (h : phys s.mode i = some p) :
    s.writeReg i v = s.setPhys p v := by
  simp [State.writeReg, h]

/-- A register number reads the same in two states of one mode that hold the same in the register it names. -/
theorem State.readReg_congr {s t : State} {i : RegNum} (hm : t.mode = s.mode) (hi : i ≠ pcReg)
    (h : ∀ p, phys s.mode i = some p → t.getPhys p = s.getPhys p) : t.readReg i = s.readReg i := by
  cases hp : phys s.mode i with
  | none => exact absurd (phys_eq_none.mp hp) hi
  | some p => rw [s.readReg_of_phys hp, t.readReg_of_phys (hm ▸ hp), h p hp]

/-! ### What a write of a register number leaves alone -/

theorem State.branch_eq (v : Word) :
    s.branch v = { s with pc := if s.thumb then v &&& ~~~1#32 else v &&& ~~~3#32 } := by
  unfold State.branch
  split <;> rename_i h <;> simp [State.branchThumb, State.branchArm]

/-- A write of a register number writes its physical register, or branches where the number is 15. -/
theorem State.writeReg_cases (i : RegNum) (v : Word) :
    (∃ p, phys s.mode i = some p ∧ s.writeReg i v = s.setPhys p v) ∨ (i = pcReg ∧ s.writeReg i v = s.branch v) := by
  cases hp : phys s.mode i with
  | none => exact .inr ⟨phys_eq_none.mp hp, by simp [State.writeReg, hp]⟩
  | some p => exact .inl ⟨p, rfl, s.writeReg_of_phys v hp⟩

@[simp] theorem State.writeReg_cpsr (i : RegNum) (v : Word) : (s.writeReg i v).cpsr = s.cpsr := by
  rcases s.writeReg_cases i v with ⟨p, -, h⟩ | ⟨-, h⟩ <;> simp [h, State.branch_eq]
@[simp] theorem State.writeReg_mem (i : RegNum) (v : Word) : (s.writeReg i v).mem = s.mem := by
  rcases s.writeReg_cases i v with ⟨p, -, h⟩ | ⟨-, h⟩ <;> simp [h, State.branch_eq]
@[simp] theorem State.writeReg_stored (i : RegNum) (v : Word) : (s.writeReg i v).stored = s.stored := by
  rcases s.writeReg_cases i v with ⟨p, -, h⟩ | ⟨-, h⟩ <;> simp [h, State.branch_eq]
@[simp] theorem State.writeReg_lines (i : RegNum) (v : Word) : (s.writeReg i v).lines = s.lines := by
  rcases s.writeReg_cases i v with ⟨p, -, h⟩ | ⟨-, h⟩ <;> simp [h, State.branch_eq]
@[simp] theorem State.writeReg_upcoming (i : RegNum) (v : Word) : (s.writeReg i v).upcoming = s.upcoming := by
  rcases s.writeReg_cases i v with ⟨p, -, h⟩ | ⟨-, h⟩ <;> simp [h, State.branch_eq]
@[simp] theorem State.writeReg_masters (i : RegNum) (v : Word) : (s.writeReg i v).masters = s.masters := by
  rcases s.writeReg_cases i v with ⟨p, -, h⟩ | ⟨-, h⟩ <;> simp [h, State.branch_eq]
@[simp] theorem State.writeReg_resetting (i : RegNum) (v : Word) : (s.writeReg i v).resetting = s.resetting := by
  rcases s.writeReg_cases i v with ⟨p, -, h⟩ | ⟨-, h⟩ <;> simp [h, State.branch_eq]
@[simp] theorem State.writeReg_memoryMap (i : RegNum) (v : Word) : (s.writeReg i v).memoryMap = s.memoryMap := by
  rcases s.writeReg_cases i v with ⟨p, -, h⟩ | ⟨-, h⟩ <;> simp [h, State.branch_eq]
@[simp] theorem State.writeReg_bigend (i : RegNum) (v : Word) : (s.writeReg i v).bigend = s.bigend := by
  rcases s.writeReg_cases i v with ⟨p, -, h⟩ | ⟨-, h⟩ <;> simp [h, State.branch_eq]
@[simp] theorem State.writeReg_unallocTraps (i : RegNum) (v : Word) :
    (s.writeReg i v).unallocTraps = s.unallocTraps := by
  rcases s.writeReg_cases i v with ⟨p, -, h⟩ | ⟨-, h⟩ <;> simp [h, State.branch_eq]
@[simp] theorem State.writeReg_draws (i : RegNum) (v : Word) : (s.writeReg i v).draws = s.draws := by
  rcases s.writeReg_cases i v with ⟨p, -, h⟩ | ⟨-, h⟩ <;> simp [h, State.branch_eq]
@[simp] theorem State.writeReg_spsrFiq (i : RegNum) (v : Word) : (s.writeReg i v).spsrFiq = s.spsrFiq := by
  rcases s.writeReg_cases i v with ⟨p, -, h⟩ | ⟨-, h⟩ <;> simp [h, State.branch_eq]
@[simp] theorem State.writeReg_spsrIrq (i : RegNum) (v : Word) : (s.writeReg i v).spsrIrq = s.spsrIrq := by
  rcases s.writeReg_cases i v with ⟨p, -, h⟩ | ⟨-, h⟩ <;> simp [h, State.branch_eq]
@[simp] theorem State.writeReg_spsrSvc (i : RegNum) (v : Word) : (s.writeReg i v).spsrSvc = s.spsrSvc := by
  rcases s.writeReg_cases i v with ⟨p, -, h⟩ | ⟨-, h⟩ <;> simp [h, State.branch_eq]
@[simp] theorem State.writeReg_spsrAbt (i : RegNum) (v : Word) : (s.writeReg i v).spsrAbt = s.spsrAbt := by
  rcases s.writeReg_cases i v with ⟨p, -, h⟩ | ⟨-, h⟩ <;> simp [h, State.branch_eq]
@[simp] theorem State.writeReg_spsrUnd (i : RegNum) (v : Word) : (s.writeReg i v).spsrUnd = s.spsrUnd := by
  rcases s.writeReg_cases i v with ⟨p, -, h⟩ | ⟨-, h⟩ <;> simp [h, State.branch_eq]
@[simp] theorem State.writeReg_mode (i : RegNum) (v : Word) : (s.writeReg i v).mode = s.mode := by
  simp [State.mode, State.modeBits]
@[simp] theorem State.writeReg_thumb (i : RegNum) (v : Word) : (s.writeReg i v).thumb = s.thumb := by
  simp [State.thumb]
@[simp] theorem State.writeReg_readByte (i : RegNum) (v a : Word) : (s.writeReg i v).readByte a = s.readByte a := by
  simp [State.readByte]

/-- A write of a number other than 15 keeps the PC. -/
theorem State.writeReg_pc {i : RegNum} (v : Word) (hi : i ≠ pcReg) : (s.writeReg i v).pc = s.pc := by
  rcases s.writeReg_cases i v with ⟨p, -, h⟩ | ⟨h, -⟩
  · simp [h]
  · exact absurd h hi

/-- A write of a number changes the physical register it names and no other. -/
theorem State.getPhys_writeReg (i : RegNum) (v : Word) (q : PhysReg) :
    (s.writeReg i v).getPhys q = if phys s.mode i = some q then v else s.getPhys q := by
  rcases s.writeReg_cases i v with ⟨p, hp, h⟩ | ⟨hi, h⟩
  · rw [h, State.getPhys_setPhys, hp]
    simp [eq_comm]
  · subst hi
    rw [h, State.branch_eq]
    simp [State.getPhys]

/-- What is written to a number other than 15 is read back there. -/
theorem State.readReg_writeReg_self {i : RegNum} (v : Word) (hi : i ≠ pcReg) : (s.writeReg i v).readReg i = v := by
  rcases s.writeReg_cases i v with ⟨p, hp, h⟩ | ⟨h, -⟩
  · rw [State.readReg_of_phys (p := p) _ (by simpa using hp), State.getPhys_writeReg, if_pos hp]
  · exact absurd h hi

/-- A write of one number leaves every other number but 15 reading as before. -/
theorem State.readReg_writeReg_ne {i j : RegNum} (v : Word) (hij : j ≠ i) (hj : j ≠ pcReg) :
    (s.writeReg i v).readReg j = s.readReg j := by
  apply State.readReg_congr (by simp) hj
  intro p hp
  rw [State.getPhys_writeReg, if_neg]
  exact fun h => hij (phys_inj hp h)

theorem loReg_ne_pcReg (r : BitVec 3) : loReg r ≠ pcReg := by
  have := r.isLt
  intro h
  have := congrArg Fin.val h
  simp [loReg, pcReg] at this
  omega

theorem loReg_ne_spReg (r : BitVec 3) : loReg r ≠ spReg := by
  have := r.isLt
  intro h
  have := congrArg Fin.val h
  simp [loReg, spReg] at this
  omega

theorem loReg_inj {a b : BitVec 3} (h : loReg a = loReg b) : a = b := by
  have := congrArg Fin.val h
  exact BitVec.eq_of_toNat_eq this

end Sys2Proof.Machine
end

