-- ==== Sys2Proof/Laws/Memory.lean ====
section
/-! SUPPORT. Memory: read after write, the canonical form kept by every memory operation, the record of stored bytes, and
bytes to words and back (R60 to R64). -/

namespace Sys2Proof.Machine

/-! ### Cells -/

theorem readCell_writeCell (m : List Host.Cell) (a c : Nat) (b : Byte) :
    readCell (writeCell m a b) c = if c = a then some b else readCell m c := by
  induction m with
  | nil => simp [writeCell, readCell, eq_comm]
  | cons k m ih =>
    obtain ⟨k, d⟩ := k
    simp only [writeCell]
    split
    · simp [readCell, eq_comm]
    · split
      · rename_i h1 h2
        subst h2
        by_cases hc : a = c
        · simp [readCell, hc]
        · simp [readCell, hc, Ne.symm hc]
      · rename_i h1 h2
        simp only [readCell, ih]
        by_cases hk : k = c
        · rw [if_pos hk, if_neg (by omega), if_pos hk]
        · rw [if_neg hk, if_neg hk]

theorem mem_writeCell {m : List Host.Cell} {a : Nat} {b : Byte} {c : Host.Cell} (h : c ∈ writeCell m a b) :
    c = (a, b) ∨ c ∈ m := by
  induction m with
  | nil => simpa [writeCell] using h
  | cons k m ih =>
    simp only [writeCell] at h
    split at h
    · simpa using h
    · split at h
      · rcases List.mem_cons.mp h with h | h
        · exact .inl h
        · exact .inr (List.mem_cons_of_mem _ h)
      · rcases List.mem_cons.mp h with h | h
        · exact .inr (by simp [h])
        · exact (ih h).imp id (List.mem_cons_of_mem _)

/-- A write keeps the canonical form. -/
theorem writeCell_wf {m : List Host.Cell} {a : Nat} {b : Byte} (hm : Memory.wf m) (ha : a < 2 ^ 32) :
    Memory.wf (writeCell m a b) := by
  obtain ⟨hs, hb⟩ := hm
  refine ⟨?_, fun c hc => ?_⟩
  · clear hb ha
    induction m with
    | nil => simp [writeCell]
    | cons k m ih =>
      rw [List.pairwise_cons] at hs
      simp only [writeCell]
      split
      · rename_i h
        refine List.pairwise_cons.mpr ⟨fun c hc => ?_, List.pairwise_cons.mpr hs⟩
        rcases List.mem_cons.mp hc with rfl | hc
        · exact h
        · exact Nat.lt_trans h (hs.1 c hc)
      · split
        · rename_i h1 h2
          exact List.pairwise_cons.mpr ⟨fun c hc => h2 ▸ hs.1 c hc, hs.2⟩
        · rename_i h1 h2
          refine List.pairwise_cons.mpr ⟨fun c hc => ?_, ih hs.2⟩
          rcases mem_writeCell hc with rfl | hc
          · simp; omega
          · exact hs.1 c hc
  · rcases mem_writeCell hc with rfl | hc
    · exact ha
    · exact hb c hc

/-- The memory of the machine after reset has the canonical form. -/
theorem State.reset_mem_wf : Memory.wf State.reset.mem := by
  simp [State.reset, Memory.wf]

/-! ### The record of stored bytes -/

theorem mem_insertAddr {l : List Nat} {a c : Nat} : c ∈ insertAddr l a ↔ c = a ∨ c ∈ l := by
  induction l with
  | nil => simp [insertAddr]
  | cons k l ih =>
    simp only [insertAddr]
    split
    · simp
    · split
      · rename_i h; subst h; simp
      · simp [ih]; tauto

theorem insertAddr_sorted {l : List Nat} {a : Nat} (h : l.Pairwise (· < ·)) : (insertAddr l a).Pairwise (· < ·) := by
  induction l with
  | nil => simp [insertAddr]
  | cons k l ih =>
    rw [List.pairwise_cons] at h
    simp only [insertAddr]
    split
    · rename_i hk
      refine List.pairwise_cons.mpr ⟨fun c hc => ?_, List.pairwise_cons.mpr h⟩
      rcases List.mem_cons.mp hc with rfl | hc
      · exact hk
      · exact Nat.lt_trans hk (h.1 c hc)
    · split
      · exact List.pairwise_cons.mpr h
      · rename_i h1 h2
        refine List.pairwise_cons.mpr ⟨fun c hc => ?_, ih h.2⟩
        rcases mem_insertAddr.mp hc with rfl | hc
        · omega
        · exact h.1 c hc

/-! ### Bytes of a state -/

variable (s : State)

/-- A byte written is the one read back, and no other byte changes. -/
theorem State.readByte_writeByte (a c : Word) (b : Byte) :
    (s.writeByte a b).readByte c = if c = a then some b else s.readByte c := by
  simp only [State.readByte, State.writeByte_mem, readCell_writeCell, BitVec.toNat_inj]

theorem State.writeByte_wf {s : State} (a : Word) (b : Byte) (h : Memory.wf s.mem) : Memory.wf (s.writeByte a b).mem :=
  writeCell_wf h a.isLt

theorem State.mem_writeByte_stored (a : Word) (b : Byte) (c : Nat) :
    c ∈ (s.writeByte a b).stored ↔ c = a.toNat ∨ c ∈ s.stored := by simp [mem_insertAddr]

theorem State.readByte_congr {s t : State} (h : t.mem = s.mem) (a : Word) : t.readByte a = s.readByte a := by
  simp [State.readByte, h]

theorem State.readWord_congr {s t : State} (h : t.mem = s.mem) (hb : t.bigend = s.bigend) (a : Word) :
    t.readWord a = s.readWord a := by
  simp [State.readWord, State.readByte, h, hb]

theorem State.readMem_congr {s t : State} (h : t.mem = s.mem) (hb : t.bigend = s.bigend) (z : Size) (a : Word) :
    t.readMem z a = s.readMem z a := by
  cases z <;> simp [State.readMem, State.readWord, State.readHalf, State.readByte, h, hb]

/-! ### Stores of each width

A store of any width is a chain of `writeByte`; what it keeps is said once, of any such chain. -/

/-- What every store keeps: all but `mem` and `stored`. -/
structure State.OnlyMemory (s t : State) : Prop where
  regs : t.regs = s.regs
  pc : t.pc = s.pc
  cpsr : t.cpsr = s.cpsr
  spsrFiq : t.spsrFiq = s.spsrFiq
  spsrIrq : t.spsrIrq = s.spsrIrq
  spsrSvc : t.spsrSvc = s.spsrSvc
  spsrAbt : t.spsrAbt = s.spsrAbt
  spsrUnd : t.spsrUnd = s.spsrUnd
  lines : t.lines = s.lines
  upcoming : t.upcoming = s.upcoming
  masters : t.masters = s.masters
  resetting : t.resetting = s.resetting
  memoryMap : t.memoryMap = s.memoryMap
  bigend : t.bigend = s.bigend
  unallocTraps : t.unallocTraps = s.unallocTraps
  draws : t.draws = s.draws

theorem State.OnlyMemory.refl (s : State) : s.OnlyMemory s := by constructor <;> rfl

theorem State.OnlyMemory.trans {s t u : State} (h : s.OnlyMemory t) (k : t.OnlyMemory u) : s.OnlyMemory u :=
  ⟨k.regs.trans h.regs, k.pc.trans h.pc, k.cpsr.trans h.cpsr, k.spsrFiq.trans h.spsrFiq, k.spsrIrq.trans h.spsrIrq,
    k.spsrSvc.trans h.spsrSvc, k.spsrAbt.trans h.spsrAbt, k.spsrUnd.trans h.spsrUnd, k.lines.trans h.lines,
    k.upcoming.trans h.upcoming, k.masters.trans h.masters, k.resetting.trans h.resetting,
    k.memoryMap.trans h.memoryMap, k.bigend.trans h.bigend, k.unallocTraps.trans h.unallocTraps,
    k.draws.trans h.draws⟩

theorem State.OnlyMemory.getPhys {s t : State} (h : s.OnlyMemory t) (p : PhysReg) : t.getPhys p = s.getPhys p := by
  simp [State.getPhys, h.regs]

theorem State.OnlyMemory.mode {s t : State} (h : s.OnlyMemory t) : t.mode = s.mode := by
  simp [State.mode, State.modeBits, h.cpsr]

theorem State.OnlyMemory.thumb {s t : State} (h : s.OnlyMemory t) : t.thumb = s.thumb := by
  simp [State.thumb, h.cpsr]

theorem State.OnlyMemory.readReg {s t : State} (h : s.OnlyMemory t) (i : RegNum) : t.readReg i = s.readReg i := by
  simp [State.readReg, h.mode, h.getPhys, State.readPc, h.thumb, h.pc]

theorem State.OnlyMemory.aborts {s t : State} (h : s.OnlyMemory t) (k : AccessKind) (z : Size) (a : Word) :
    t.aborts k z a = s.aborts k z a := by
  simp [State.aborts, h.lines, State.userMode, h.mode, State.outside, State.kindAt, h.memoryMap]

theorem State.OnlyMemory.inRam {s t : State} (h : s.OnlyMemory t) (z : Size) (a : Word) : t.inRam z a = s.inRam z a := by
  simp [State.inRam, State.kindAt, h.memoryMap]

theorem State.onlyMemory_writeByte (a : Word) (b : Byte) : s.OnlyMemory (s.writeByte a b) := by constructor <;> rfl

theorem State.onlyMemory_writeMem (z : Size) (a v : Word) : s.OnlyMemory (s.writeMem z a v) := by
  cases z <;> constructor <;> rfl

theorem State.onlyMemory_writeWord (a v : Word) : s.OnlyMemory (s.writeWord a v) := by constructor <;> rfl

theorem State.writeMem_wf {s : State} (z : Size) (a v : Word) (h : Memory.wf s.mem) :
    Memory.wf (s.writeMem z a v).mem := by
  cases z <;> simp only [State.writeMem, State.writeHalf, State.writeWord]
  · exact State.writeByte_wf _ _ h
  · exact State.writeByte_wf _ _ (State.writeByte_wf _ _ h)
  · exact State.writeByte_wf _ _ (State.writeByte_wf _ _ (State.writeByte_wf _ _ (State.writeByte_wf _ _ h)))

theorem State.writeWord_wf {s : State} (a v : Word) (h : Memory.wf s.mem) : Memory.wf (s.writeWord a v).mem :=
  State.writeMem_wf .word a v h

/-- Bytes placed by the host keep the canonical form. -/
theorem placeCells_wf {m : List Host.Cell} (a : Word) (b : Byte) (h : Memory.wf m) :
    Memory.wf (writeCell m a.toNat b) := writeCell_wf h a.isLt

/-- Every byte after a halfword store. -/
theorem State.readByte_writeHalf (a c : Word) (h : Half) :
    (s.writeHalf a h).readByte c =
      if c = a + 1#32 then some (byteOfHalf s.bigend h 1)
      else if c = a then some (byteOfHalf s.bigend h 0) else s.readByte c := by
  simp only [State.writeHalf, State.readByte_writeByte]

/-- Every byte after a word store. -/
theorem State.readByte_writeWord (a c w : Word) :
    (s.writeWord a w).readByte c =
      if c = a + 3#32 then some (byteOfWord s.bigend w 3)
      else if c = a + 2#32 then some (byteOfWord s.bigend w 2)
      else if c = a + 1#32 then some (byteOfWord s.bigend w 1)
      else if c = a then some (byteOfWord s.bigend w 0) else s.readByte c := by
  simp only [State.writeWord, State.readByte_writeByte]

/-- The addresses a word store records. -/
theorem State.mem_writeWord_stored (a w : Word) (c : Nat) :
    c ∈ (s.writeWord a w).stored ↔
      c = (a + 3#32).toNat ∨ c = (a + 2#32).toNat ∨ c = (a + 1#32).toNat ∨ c = a.toNat ∨ c ∈ s.stored := by
  simp only [State.writeWord, State.mem_writeByte_stored]

/-- The addresses a halfword store records. -/
theorem State.mem_writeHalf_stored (a : Word) (h : Half) (c : Nat) :
    c ∈ (s.writeHalf a h).stored ↔ c = (a + 1#32).toNat ∨ c = a.toNat ∨ c ∈ s.stored := by
  simp only [State.writeHalf, State.mem_writeByte_stored]

/-- The bytes of a word, put together again (R63, R64). -/
theorem wordOfBytes_byteOfWord (big : Bool) (w : Word) :
    wordOfBytes big (byteOfWord big w 0) (byteOfWord big w 1) (byteOfWord big w 2) (byteOfWord big w 3) = w := by
  cases big <;> apply BitVec.eq_of_getLsbD_eq <;> intro i hi <;>
    simp only [wordOfBytes, byteOfWord, if_true, if_false, Bool.false_eq_true, BitVec.getLsbD_append,
      BitVec.getLsbD_extractLsb'] <;>
    (repeat' split) <;> rw [decide_eq_true (by omega), Bool.true_and] <;> congr 1 <;> omega

/-- The bytes of a halfword, put together again (R64). -/
theorem halfOfBytes_byteOfHalf (big : Bool) (h : Half) :
    halfOfBytes big (byteOfHalf big h 0) (byteOfHalf big h 1) = h := by
  cases big <;> apply BitVec.eq_of_getLsbD_eq <;> intro i hi <;>
    simp only [halfOfBytes, byteOfHalf, if_true, if_false, Bool.false_eq_true, BitVec.getLsbD_append,
      BitVec.getLsbD_extractLsb'] <;>
    (repeat' split) <;> rw [decide_eq_true (by omega), Bool.true_and] <;> congr 1 <;> omega

end Sys2Proof.Machine
end

