-- ==== Sys2Proof/Laws/Exceptions.lean ====
section
/-! SUPPORT. Exception entry and return, said once, part by part (R305 to R307, R320). -/

namespace Sys2Proof.Machine

variable (s : State)

/-! ### The SPSRs -/

@[simp] theorem State.setSpsrOf_regs (m : Mode) (v : Word) : (s.setSpsrOf m v).regs = s.regs := by cases m <;> rfl
@[simp] theorem State.setSpsrOf_mem (m : Mode) (v : Word) : (s.setSpsrOf m v).mem = s.mem := by cases m <;> rfl
@[simp] theorem State.setSpsrOf_stored (m : Mode) (v : Word) : (s.setSpsrOf m v).stored = s.stored := by
  cases m <;> rfl
@[simp] theorem State.setSpsrOf_lines (m : Mode) (v : Word) : (s.setSpsrOf m v).lines = s.lines := by cases m <;> rfl
@[simp] theorem State.setSpsrOf_upcoming (m : Mode) (v : Word) : (s.setSpsrOf m v).upcoming = s.upcoming := by
  cases m <;> rfl
@[simp] theorem State.setSpsrOf_masters (m : Mode) (v : Word) : (s.setSpsrOf m v).masters = s.masters := by
  cases m <;> rfl
@[simp] theorem State.setSpsrOf_resetting (m : Mode) (v : Word) : (s.setSpsrOf m v).resetting = s.resetting := by
  cases m <;> rfl
@[simp] theorem State.setSpsrOf_memoryMap (m : Mode) (v : Word) : (s.setSpsrOf m v).memoryMap = s.memoryMap := by
  cases m <;> rfl
@[simp] theorem State.setSpsrOf_bigend (m : Mode) (v : Word) : (s.setSpsrOf m v).bigend = s.bigend := by
  cases m <;> rfl
@[simp] theorem State.setSpsrOf_unallocTraps (m : Mode) (v : Word) :
    (s.setSpsrOf m v).unallocTraps = s.unallocTraps := by cases m <;> rfl
@[simp] theorem State.setSpsrOf_draws (m : Mode) (v : Word) : (s.setSpsrOf m v).draws = s.draws := by cases m <;> rfl

theorem State.spsrOf_setSpsrOf_ne {m n : Mode} (v : Word) (h : n ≠ m) : (s.setSpsrOf m v).spsrOf n = s.spsrOf n := by
  cases m <;> cases n <;> first | rfl | exact absurd rfl h

/-- User and System mode are the modes without an SPSR (R21). -/
theorem State.spsrOf_eq_none {m : Mode} : s.spsrOf m = none ↔ m = .usr ∨ m = .sys := by
  cases m <;> simp [State.spsrOf]

/-! ### Entry -/

variable (k : Exc) (link saved : Word)

@[simp] theorem State.enter_pc : (s.enter k link saved).pc = k.vector := rfl
@[simp] theorem State.enter_cpsr : (s.enter k link saved).cpsr = k.cpsrAfter s.cpsr := rfl
@[simp] theorem State.enter_mem : (s.enter k link saved).mem = s.mem := by simp [State.enter]
@[simp] theorem State.enter_stored : (s.enter k link saved).stored = s.stored := by simp [State.enter]
@[simp] theorem State.enter_lines : (s.enter k link saved).lines = s.lines := by simp [State.enter]
@[simp] theorem State.enter_upcoming : (s.enter k link saved).upcoming = s.upcoming := by simp [State.enter]
@[simp] theorem State.enter_masters : (s.enter k link saved).masters = s.masters := by simp [State.enter]
@[simp] theorem State.enter_resetting : (s.enter k link saved).resetting = s.resetting := by simp [State.enter]
@[simp] theorem State.enter_memoryMap : (s.enter k link saved).memoryMap = s.memoryMap := by simp [State.enter]
@[simp] theorem State.enter_bigend : (s.enter k link saved).bigend = s.bigend := by simp [State.enter]
@[simp] theorem State.enter_unallocTraps : (s.enter k link saved).unallocTraps = s.unallocTraps := by
  simp [State.enter]
@[simp] theorem State.enter_draws : (s.enter k link saved).draws = s.draws := by simp [State.enter]

/-- Entry writes R14 of the mode entered and no other register. -/
theorem State.getPhys_enter (q : PhysReg) :
    (s.enter k link saved).getPhys q = if q = .r14 k.mode.bank then link else s.getPhys q := by
  rw [← State.getPhys_setPhys]
  simp [State.getPhys, State.enter]

/-- Entry writes the SPSR of the mode entered. -/
theorem State.spsrOf_enter_self : (s.enter k link saved).spsrOf k.mode = some saved := by cases k <;> rfl

/-- Entry writes no other SPSR. -/
theorem State.spsrOf_enter_ne {m : Mode} (h : m ≠ k.mode) : (s.enter k link saved).spsrOf m = s.spsrOf m := by
  cases k <;> cases m <;> first | rfl | exact absurd rfl h

/-! ### The CPSR after an entry -/

variable (w : Word)

@[simp] theorem Exc.psrN_cpsrAfter : psrN (k.cpsrAfter w) = psrN w := by
  cases k <;> simp [Exc.cpsrAfter, Exc.setsF, psrN, getElem_putBit, getElem_putM]
@[simp] theorem Exc.psrZ_cpsrAfter : psrZ (k.cpsrAfter w) = psrZ w := by
  cases k <;> simp [Exc.cpsrAfter, Exc.setsF, psrZ, getElem_putBit, getElem_putM]
@[simp] theorem Exc.psrC_cpsrAfter : psrC (k.cpsrAfter w) = psrC w := by
  cases k <;> simp [Exc.cpsrAfter, Exc.setsF, psrC, getElem_putBit, getElem_putM]
@[simp] theorem Exc.psrV_cpsrAfter : psrV (k.cpsrAfter w) = psrV w := by
  cases k <;> simp [Exc.cpsrAfter, Exc.setsF, psrV, getElem_putBit, getElem_putM]
@[simp] theorem Exc.psrI_cpsrAfter : psrI (k.cpsrAfter w) = true := by
  cases k <;> simp [Exc.cpsrAfter, Exc.setsF, psrI, getElem_putBit]
@[simp] theorem Exc.psrF_cpsrAfter : psrF (k.cpsrAfter w) = (k.setsF || psrF w) := by
  cases k <;> simp [Exc.cpsrAfter, Exc.setsF, psrF, getElem_putBit, getElem_putM]
@[simp] theorem Exc.psrT_cpsrAfter : psrT (k.cpsrAfter w) = false := by
  cases k <;> simp [Exc.cpsrAfter, Exc.setsF, psrT, getElem_putBit]
@[simp] theorem Exc.psrM_cpsrAfter : psrM (k.cpsrAfter w) = k.mode.bits := by
  cases k <;> simp [Exc.cpsrAfter, Exc.setsF]

/-- Every bit of the CPSR above the control bits is kept by an entry. -/
theorem Exc.getLsbD_cpsrAfter (j : Nat) (h : 8 ≤ j) : (k.cpsrAfter w).getLsbD j = w.getLsbD j := by
  have h5 : j ≠ 5 := by omega
  have h6 : j ≠ 6 := by omega
  have h7 : j ≠ 7 := by omega
  have hm : ¬ j < 5 := by omega
  cases k <;> simp [Exc.cpsrAfter, Exc.setsF, getLsbD_putBit, getLsbD_putM, h5, h6, h7, hm]

@[simp] theorem Mode.ofBits_bits (m : Mode) : Mode.ofBits m.bits = some m := by cases m <;> rfl

@[simp] theorem State.enter_mode : (s.enter k link saved).mode = some k.mode := by
  simp [State.mode, State.modeBits]

@[simp] theorem State.enter_thumb : (s.enter k link saved).thumb = false := by simp [State.thumb]

/-! ### The data abort and the return -/

theorem State.dataAbort_eq : s.dataAbort = s.enter .dataAbort (s.pc + 8#32) s.cpsr := rfl

/-- Where an exception return answers a next state, the mode has an SPSR, which the CPSR takes whole, and the PC takes the
value, aligned for the state returned to; nothing else changes. -/
theorem State.exceptionReturn_next {s t : State} {v : Word} (h : s.exceptionReturn v = .next t) :
    ∃ m w, s.mode = some m ∧ s.spsrOf m = some w ∧
      t = { s with cpsr := w, pc := if psrT w then v &&& ~~~1#32 else v &&& ~~~3#32 } := by
  unfold State.exceptionReturn at h
  split at h
  · cases h
  · rename_i w hw
    obtain ⟨m, hm, hs⟩ := Option.bind_eq_some_iff.mp hw
    cases h
    exact ⟨m, w, hm, hs, rfl⟩

end Sys2Proof.Machine
end

