-- ==== Sys2Proof/Laws/PerInstr.lean ====
section
/-! SUPPORT. Per instruction: its row's width (R100). The encoding of a THUMB row is one halfword and the row is well
formed whatever its fields; the encoding of an ARM row is one word. -/

/-- The width of an instruction's code is that of its row, and a THUMB row admits every value of its fields. -/
def Sys2Proof.Laws.CodeWidth.Statement (i : Sys2Proof.Instr) : Prop :=
  if i.isThumb then i.wf = true ∧ ∃ h, Sys2Proof.encode i = .half h else ∃ w, Sys2Proof.encode i = .word w

namespace Sys2Proof.Laws

theorem CodeWidth.lslImm (rd rs : BitVec 3) (off : BitVec 5) : CodeWidth.Statement (.lslImm rd rs off) := ⟨rfl, _, rfl⟩
theorem CodeWidth.lsrImm (rd rs : BitVec 3) (off : BitVec 5) : CodeWidth.Statement (.lsrImm rd rs off) := ⟨rfl, _, rfl⟩
theorem CodeWidth.asrImm (rd rs : BitVec 3) (off : BitVec 5) : CodeWidth.Statement (.asrImm rd rs off) := ⟨rfl, _, rfl⟩
theorem CodeWidth.addReg (rd rs rn : BitVec 3) : CodeWidth.Statement (.addReg rd rs rn) := ⟨rfl, _, rfl⟩
theorem CodeWidth.addImm3 (rd rs imm : BitVec 3) : CodeWidth.Statement (.addImm3 rd rs imm) := ⟨rfl, _, rfl⟩
theorem CodeWidth.subReg (rd rs rn : BitVec 3) : CodeWidth.Statement (.subReg rd rs rn) := ⟨rfl, _, rfl⟩
theorem CodeWidth.subImm3 (rd rs imm : BitVec 3) : CodeWidth.Statement (.subImm3 rd rs imm) := ⟨rfl, _, rfl⟩
theorem CodeWidth.movImm8 (rd : BitVec 3) (imm : BitVec 8) : CodeWidth.Statement (.movImm8 rd imm) := ⟨rfl, _, rfl⟩
theorem CodeWidth.cmpImm8 (rd : BitVec 3) (imm : BitVec 8) : CodeWidth.Statement (.cmpImm8 rd imm) := ⟨rfl, _, rfl⟩
theorem CodeWidth.addImm8 (rd : BitVec 3) (imm : BitVec 8) : CodeWidth.Statement (.addImm8 rd imm) := ⟨rfl, _, rfl⟩
theorem CodeWidth.subImm8 (rd : BitVec 3) (imm : BitVec 8) : CodeWidth.Statement (.subImm8 rd imm) := ⟨rfl, _, rfl⟩
theorem CodeWidth.andReg (rd rs : BitVec 3) : CodeWidth.Statement (.andReg rd rs) := ⟨rfl, _, rfl⟩
theorem CodeWidth.eorReg (rd rs : BitVec 3) : CodeWidth.Statement (.eorReg rd rs) := ⟨rfl, _, rfl⟩
theorem CodeWidth.lslReg (rd rs : BitVec 3) : CodeWidth.Statement (.lslReg rd rs) := ⟨rfl, _, rfl⟩
theorem CodeWidth.lsrReg (rd rs : BitVec 3) : CodeWidth.Statement (.lsrReg rd rs) := ⟨rfl, _, rfl⟩
theorem CodeWidth.asrReg (rd rs : BitVec 3) : CodeWidth.Statement (.asrReg rd rs) := ⟨rfl, _, rfl⟩
theorem CodeWidth.adcReg (rd rs : BitVec 3) : CodeWidth.Statement (.adcReg rd rs) := ⟨rfl, _, rfl⟩
theorem CodeWidth.sbcReg (rd rs : BitVec 3) : CodeWidth.Statement (.sbcReg rd rs) := ⟨rfl, _, rfl⟩
theorem CodeWidth.rorReg (rd rs : BitVec 3) : CodeWidth.Statement (.rorReg rd rs) := ⟨rfl, _, rfl⟩
theorem CodeWidth.tstReg (rd rs : BitVec 3) : CodeWidth.Statement (.tstReg rd rs) := ⟨rfl, _, rfl⟩
theorem CodeWidth.negReg (rd rs : BitVec 3) : CodeWidth.Statement (.negReg rd rs) := ⟨rfl, _, rfl⟩
theorem CodeWidth.cmpReg (rd rs : BitVec 3) : CodeWidth.Statement (.cmpReg rd rs) := ⟨rfl, _, rfl⟩
theorem CodeWidth.cmnReg (rd rs : BitVec 3) : CodeWidth.Statement (.cmnReg rd rs) := ⟨rfl, _, rfl⟩
theorem CodeWidth.orrReg (rd rs : BitVec 3) : CodeWidth.Statement (.orrReg rd rs) := ⟨rfl, _, rfl⟩
theorem CodeWidth.mulReg (rd rs : BitVec 3) : CodeWidth.Statement (.mulReg rd rs) := ⟨rfl, _, rfl⟩
theorem CodeWidth.bicReg (rd rs : BitVec 3) : CodeWidth.Statement (.bicReg rd rs) := ⟨rfl, _, rfl⟩
theorem CodeWidth.mvnReg (rd rs : BitVec 3) : CodeWidth.Statement (.mvnReg rd rs) := ⟨rfl, _, rfl⟩
theorem CodeWidth.addRdHs (rd hs : BitVec 3) : CodeWidth.Statement (.addRdHs rd hs) := ⟨rfl, _, rfl⟩
theorem CodeWidth.addHdRs (hd rs : BitVec 3) : CodeWidth.Statement (.addHdRs hd rs) := ⟨rfl, _, rfl⟩
theorem CodeWidth.addHdHs (hd hs : BitVec 3) : CodeWidth.Statement (.addHdHs hd hs) := ⟨rfl, _, rfl⟩
theorem CodeWidth.cmpRdHs (rd hs : BitVec 3) : CodeWidth.Statement (.cmpRdHs rd hs) := ⟨rfl, _, rfl⟩
theorem CodeWidth.cmpHdRs (hd rs : BitVec 3) : CodeWidth.Statement (.cmpHdRs hd rs) := ⟨rfl, _, rfl⟩
theorem CodeWidth.cmpHdHs (hd hs : BitVec 3) : CodeWidth.Statement (.cmpHdHs hd hs) := ⟨rfl, _, rfl⟩
theorem CodeWidth.movRdHs (rd hs : BitVec 3) : CodeWidth.Statement (.movRdHs rd hs) := ⟨rfl, _, rfl⟩
theorem CodeWidth.movHdRs (hd rs : BitVec 3) : CodeWidth.Statement (.movHdRs hd rs) := ⟨rfl, _, rfl⟩
theorem CodeWidth.movHdHs (hd hs : BitVec 3) : CodeWidth.Statement (.movHdHs hd hs) := ⟨rfl, _, rfl⟩
theorem CodeWidth.bxRs (rs : BitVec 3) : CodeWidth.Statement (.bxRs rs) := ⟨rfl, _, rfl⟩
theorem CodeWidth.bxHs (hs : BitVec 3) : CodeWidth.Statement (.bxHs hs) := ⟨rfl, _, rfl⟩
theorem CodeWidth.ldrPc (rd : BitVec 3) (imm : BitVec 8) : CodeWidth.Statement (.ldrPc rd imm) := ⟨rfl, _, rfl⟩
theorem CodeWidth.strReg (rd rb ro : BitVec 3) : CodeWidth.Statement (.strReg rd rb ro) := ⟨rfl, _, rfl⟩
theorem CodeWidth.strbReg (rd rb ro : BitVec 3) : CodeWidth.Statement (.strbReg rd rb ro) := ⟨rfl, _, rfl⟩
theorem CodeWidth.ldrReg (rd rb ro : BitVec 3) : CodeWidth.Statement (.ldrReg rd rb ro) := ⟨rfl, _, rfl⟩
theorem CodeWidth.ldrbReg (rd rb ro : BitVec 3) : CodeWidth.Statement (.ldrbReg rd rb ro) := ⟨rfl, _, rfl⟩
theorem CodeWidth.strhReg (rd rb ro : BitVec 3) : CodeWidth.Statement (.strhReg rd rb ro) := ⟨rfl, _, rfl⟩
theorem CodeWidth.ldrhReg (rd rb ro : BitVec 3) : CodeWidth.Statement (.ldrhReg rd rb ro) := ⟨rfl, _, rfl⟩
theorem CodeWidth.ldsbReg (rd rb ro : BitVec 3) : CodeWidth.Statement (.ldsbReg rd rb ro) := ⟨rfl, _, rfl⟩
theorem CodeWidth.ldshReg (rd rb ro : BitVec 3) : CodeWidth.Statement (.ldshReg rd rb ro) := ⟨rfl, _, rfl⟩
theorem CodeWidth.strImm (rd rb : BitVec 3) (off : BitVec 5) : CodeWidth.Statement (.strImm rd rb off) := ⟨rfl, _, rfl⟩
theorem CodeWidth.ldrImm (rd rb : BitVec 3) (off : BitVec 5) : CodeWidth.Statement (.ldrImm rd rb off) := ⟨rfl, _, rfl⟩
theorem CodeWidth.strbImm (rd rb : BitVec 3) (off : BitVec 5) : CodeWidth.Statement (.strbImm rd rb off) :=
  ⟨rfl, _, rfl⟩
theorem CodeWidth.ldrbImm (rd rb : BitVec 3) (off : BitVec 5) : CodeWidth.Statement (.ldrbImm rd rb off) :=
  ⟨rfl, _, rfl⟩
theorem CodeWidth.strhImm (rd rb : BitVec 3) (off : BitVec 5) : CodeWidth.Statement (.strhImm rd rb off) :=
  ⟨rfl, _, rfl⟩
theorem CodeWidth.ldrhImm (rd rb : BitVec 3) (off : BitVec 5) : CodeWidth.Statement (.ldrhImm rd rb off) :=
  ⟨rfl, _, rfl⟩
theorem CodeWidth.strSp (rd : BitVec 3) (imm : BitVec 8) : CodeWidth.Statement (.strSp rd imm) := ⟨rfl, _, rfl⟩
theorem CodeWidth.ldrSp (rd : BitVec 3) (imm : BitVec 8) : CodeWidth.Statement (.ldrSp rd imm) := ⟨rfl, _, rfl⟩
theorem CodeWidth.addPc (rd : BitVec 3) (imm : BitVec 8) : CodeWidth.Statement (.addPc rd imm) := ⟨rfl, _, rfl⟩
theorem CodeWidth.addSp (rd : BitVec 3) (imm : BitVec 8) : CodeWidth.Statement (.addSp rd imm) := ⟨rfl, _, rfl⟩
theorem CodeWidth.addSpPos (imm : BitVec 7) : CodeWidth.Statement (.addSpPos imm) := ⟨rfl, _, rfl⟩
theorem CodeWidth.addSpNeg (imm : BitVec 7) : CodeWidth.Statement (.addSpNeg imm) := ⟨rfl, _, rfl⟩
theorem CodeWidth.push (rlist : BitVec 8) : CodeWidth.Statement (.push rlist) := ⟨rfl, _, rfl⟩
theorem CodeWidth.pushLr (rlist : BitVec 8) : CodeWidth.Statement (.pushLr rlist) := ⟨rfl, _, rfl⟩
theorem CodeWidth.pop (rlist : BitVec 8) : CodeWidth.Statement (.pop rlist) := ⟨rfl, _, rfl⟩
theorem CodeWidth.popPc (rlist : BitVec 8) : CodeWidth.Statement (.popPc rlist) := ⟨rfl, _, rfl⟩
theorem CodeWidth.stmia (rb : BitVec 3) (rlist : BitVec 8) : CodeWidth.Statement (.stmia rb rlist) := ⟨rfl, _, rfl⟩
theorem CodeWidth.ldmia (rb : BitVec 3) (rlist : BitVec 8) : CodeWidth.Statement (.ldmia rb rlist) := ⟨rfl, _, rfl⟩
theorem CodeWidth.beq (off : BitVec 8) : CodeWidth.Statement (.beq off) := ⟨rfl, _, rfl⟩
theorem CodeWidth.bne (off : BitVec 8) : CodeWidth.Statement (.bne off) := ⟨rfl, _, rfl⟩
theorem CodeWidth.bcs (off : BitVec 8) : CodeWidth.Statement (.bcs off) := ⟨rfl, _, rfl⟩
theorem CodeWidth.bcc (off : BitVec 8) : CodeWidth.Statement (.bcc off) := ⟨rfl, _, rfl⟩
theorem CodeWidth.bmi (off : BitVec 8) : CodeWidth.Statement (.bmi off) := ⟨rfl, _, rfl⟩
theorem CodeWidth.bpl (off : BitVec 8) : CodeWidth.Statement (.bpl off) := ⟨rfl, _, rfl⟩
theorem CodeWidth.bvs (off : BitVec 8) : CodeWidth.Statement (.bvs off) := ⟨rfl, _, rfl⟩
theorem CodeWidth.bvc (off : BitVec 8) : CodeWidth.Statement (.bvc off) := ⟨rfl, _, rfl⟩
theorem CodeWidth.bhi (off : BitVec 8) : CodeWidth.Statement (.bhi off) := ⟨rfl, _, rfl⟩
theorem CodeWidth.bls (off : BitVec 8) : CodeWidth.Statement (.bls off) := ⟨rfl, _, rfl⟩
theorem CodeWidth.bge (off : BitVec 8) : CodeWidth.Statement (.bge off) := ⟨rfl, _, rfl⟩
theorem CodeWidth.blt (off : BitVec 8) : CodeWidth.Statement (.blt off) := ⟨rfl, _, rfl⟩
theorem CodeWidth.bgt (off : BitVec 8) : CodeWidth.Statement (.bgt off) := ⟨rfl, _, rfl⟩
theorem CodeWidth.ble (off : BitVec 8) : CodeWidth.Statement (.ble off) := ⟨rfl, _, rfl⟩
theorem CodeWidth.swi (value : BitVec 8) : CodeWidth.Statement (.swi value) := ⟨rfl, _, rfl⟩
theorem CodeWidth.b (off : BitVec 11) : CodeWidth.Statement (.b off) := ⟨rfl, _, rfl⟩
theorem CodeWidth.blHigh (off : BitVec 11) : CodeWidth.Statement (.blHigh off) := ⟨rfl, _, rfl⟩
theorem CodeWidth.blLow (off : BitVec 11) : CodeWidth.Statement (.blLow off) := ⟨rfl, _, rfl⟩
theorem CodeWidth.undefAddLoLo (x : BitVec 6) : CodeWidth.Statement (.undefAddLoLo x) := ⟨rfl, _, rfl⟩
theorem CodeWidth.undefCmpLoLo (x : BitVec 6) : CodeWidth.Statement (.undefCmpLoLo x) := ⟨rfl, _, rfl⟩
theorem CodeWidth.undefMovLoLo (x : BitVec 6) : CodeWidth.Statement (.undefMovLoLo x) := ⟨rfl, _, rfl⟩
theorem CodeWidth.undefBxH1 (x : BitVec 7) : CodeWidth.Statement (.undefBxH1 x) := ⟨rfl, _, rfl⟩
theorem CodeWidth.bxLowBits1 (x : BitVec 4) : CodeWidth.Statement (.bxLowBits1 x) := ⟨rfl, _, rfl⟩
theorem CodeWidth.bxLowBits2 (x : BitVec 4) : CodeWidth.Statement (.bxLowBits2 x) := ⟨rfl, _, rfl⟩
theorem CodeWidth.bxLowBits3 (x : BitVec 4) : CodeWidth.Statement (.bxLowBits3 x) := ⟨rfl, _, rfl⟩
theorem CodeWidth.bxLowBits4 (x : BitVec 4) : CodeWidth.Statement (.bxLowBits4 x) := ⟨rfl, _, rfl⟩
theorem CodeWidth.bxLowBits5 (x : BitVec 4) : CodeWidth.Statement (.bxLowBits5 x) := ⟨rfl, _, rfl⟩
theorem CodeWidth.bxLowBits6 (x : BitVec 4) : CodeWidth.Statement (.bxLowBits6 x) := ⟨rfl, _, rfl⟩
theorem CodeWidth.bxLowBits7 (x : BitVec 4) : CodeWidth.Statement (.bxLowBits7 x) := ⟨rfl, _, rfl⟩
theorem CodeWidth.undefCond14 (x : BitVec 8) : CodeWidth.Statement (.undefCond14 x) := ⟨rfl, _, rfl⟩
theorem CodeWidth.unallocB1 (x : BitVec 8) : CodeWidth.Statement (.unallocB1 x) := ⟨rfl, _, rfl⟩
theorem CodeWidth.unallocB2 (x : BitVec 8) : CodeWidth.Statement (.unallocB2 x) := ⟨rfl, _, rfl⟩
theorem CodeWidth.unallocB3 (x : BitVec 8) : CodeWidth.Statement (.unallocB3 x) := ⟨rfl, _, rfl⟩
theorem CodeWidth.unallocB6 (x : BitVec 8) : CodeWidth.Statement (.unallocB6 x) := ⟨rfl, _, rfl⟩
theorem CodeWidth.unallocB7 (x : BitVec 8) : CodeWidth.Statement (.unallocB7 x) := ⟨rfl, _, rfl⟩
theorem CodeWidth.unallocB8 (x : BitVec 8) : CodeWidth.Statement (.unallocB8 x) := ⟨rfl, _, rfl⟩
theorem CodeWidth.unallocB9 (x : BitVec 8) : CodeWidth.Statement (.unallocB9 x) := ⟨rfl, _, rfl⟩
theorem CodeWidth.unallocBA (x : BitVec 8) : CodeWidth.Statement (.unallocBA x) := ⟨rfl, _, rfl⟩
theorem CodeWidth.unallocBB (x : BitVec 8) : CodeWidth.Statement (.unallocBB x) := ⟨rfl, _, rfl⟩
theorem CodeWidth.unallocBE (x : BitVec 8) : CodeWidth.Statement (.unallocBE x) := ⟨rfl, _, rfl⟩
theorem CodeWidth.unallocBF (x : BitVec 8) : CodeWidth.Statement (.unallocBF x) := ⟨rfl, _, rfl⟩
theorem CodeWidth.unallocE8 (x : BitVec 11) : CodeWidth.Statement (.unallocE8 x) := ⟨rfl, _, rfl⟩
theorem CodeWidth.armBx (cond rn : BitVec 4) : CodeWidth.Statement (.armBx cond rn) := ⟨_, rfl⟩
theorem CodeWidth.armMovsPcLr (cond : BitVec 4) : CodeWidth.Statement (.armMovsPcLr cond) := ⟨_, rfl⟩
theorem CodeWidth.armSubsPcLr4 (cond : BitVec 4) : CodeWidth.Statement (.armSubsPcLr4 cond) := ⟨_, rfl⟩
theorem CodeWidth.armSubsPcLr8 (cond : BitVec 4) : CodeWidth.Statement (.armSubsPcLr8 cond) := ⟨_, rfl⟩
theorem CodeWidth.armMovPcLr (cond : BitVec 4) : CodeWidth.Statement (.armMovPcLr cond) := ⟨_, rfl⟩
theorem CodeWidth.armB (cond : BitVec 4) (off : BitVec 24) : CodeWidth.Statement (.armB cond off) := ⟨_, rfl⟩
theorem CodeWidth.armBl (cond : BitVec 4) (off : BitVec 24) : CodeWidth.Statement (.armBl cond off) := ⟨_, rfl⟩
theorem CodeWidth.armSwi (cond : BitVec 4) (comment : BitVec 24) : CodeWidth.Statement (.armSwi cond comment) :=
  ⟨_, rfl⟩

end Sys2Proof.Laws
end

