-- ==== Sys2Proof/Laws/Transfers.lean ====
section
/-! SUPPORT. What a load, a store and a block transfer can answer, said once (R200, R240 to R244). -/

namespace Sys2Proof.Machine

/-! ### Single transfers -/

/-- Where a load answers a next state, it took the data abort, a device answered it, or it read a value and went on with
it. -/
theorem State.load_next {s t : State} {z : Size} {a : Word} {k : Word → State} (h : s.load z a k = .next t) :
    aligned z a = true ∧
      (s.aborts .read z a = true ∧ t = s.dataAbort ∨
        s.aborts .read z a = false ∧ (s.onDevice z a = true ∧ t = (k (s.deviceRead z)).drew ∨
          s.onDevice z a = false ∧ ∃ v, s.readMem z a = some v ∧ t = k v)) := by
  unfold State.load at h
  split at h
  · rename_i ha
    refine ⟨ha, ?_⟩
    split at h
    · rename_i hab
      cases h
      exact .inl ⟨hab, rfl⟩
    · rename_i hab
      refine .inr ⟨by simpa using hab, ?_⟩
      split at h
      · rename_i hd
        cases h
        exact .inl ⟨hd, rfl⟩
      · rename_i hd
        split at h
        · rename_i v hv
          cases h
          exact .inr ⟨by simpa using hd, v, hv, rfl⟩
        · cases h
  · cases h

/-- Where a store answers a next state, it took the data abort, or it went past the instruction, having written memory where
RAM stands. -/
theorem State.store_next {s t : State} {z : Size} {a v : Word} (h : s.store z a v = .next t) :
    aligned z a = true ∧
      (s.aborts .write z a = true ∧ t = s.dataAbort ∨
        s.aborts .write z a = false ∧ (s.inRam z a = true ∧ t = (s.writeMem z a v).advanceThumb ∨
          s.inRam z a = false ∧ t = s.advanceThumb)) := by
  unfold State.store at h
  split at h
  · rename_i ha
    refine ⟨ha, ?_⟩
    split at h
    · rename_i hab
      cases h
      exact .inl ⟨hab, rfl⟩
    · rename_i hab
      refine .inr ⟨by simpa using hab, ?_⟩
      split at h
      · rename_i hr
        cases h
        exact .inl ⟨hr, rfl⟩
      · rename_i hr
        cases h
        exact .inr ⟨by simpa using hr, rfl⟩
  · cases h

/-! ### The stores of a block transfer -/

theorem State.onlyMemory_storeMany (s : State) (rs : List RegNum) (a : Word) :
    s.OnlyMemory (s.storeMany rs a).1 := by
  induction rs generalizing s a with
  | nil => exact State.OnlyMemory.refl s
  | cons r rs ih =>
    simp only [State.storeMany]
    split
    · exact ih s (a + 4#32)
    · split
      · exact (s.onlyMemory_writeWord a _).trans (ih _ _)
      · exact ih s (a + 4#32)

theorem State.storeMany_wf (s : State) (rs : List RegNum) (a : Word) (h : Memory.wf s.mem) :
    Memory.wf (s.storeMany rs a).1.mem := by
  induction rs generalizing s a with
  | nil => exact h
  | cons r rs ih =>
    simp only [State.storeMany]
    split
    · exact ih s (a + 4#32) h
    · split
      · exact ih _ _ (State.writeWord_wf _ _ h)
      · exact ih s (a + 4#32) h

/-- The stores of a block transfer change no byte outside the words of the list. -/
theorem State.readByte_storeMany_ne (s : State) (rs : List RegNum) (a c : Word)
    (h : ∀ k, k < 4 * rs.length → c ≠ a + BitVec.ofNat 32 k) : (s.storeMany rs a).1.readByte c = s.readByte c := by
  induction rs generalizing s a with
  | nil => rfl
  | cons r rs ih =>
    have tail : ∀ k, k < 4 * rs.length → c ≠ a + 4#32 + BitVec.ofNat 32 k := by
      intro k hk
      have := h (4 + k) (by simp; omega)
      rwa [BitVec.ofNat_add, ← BitVec.add_assoc] at this
    have head (j : Nat) (hj : j < 4) : c ≠ a + BitVec.ofNat 32 j := h j (by simp; omega)
    have h0 := head 0 (by omega)
    simp only [BitVec.add_zero] at h0
    simp only [State.storeMany]
    split
    · exact ih s _ tail
    · split
      · rw [ih _ _ tail, State.readByte_writeWord, if_neg (head 3 (by omega)), if_neg (head 2 (by omega)),
          if_neg (head 1 (by omega)), if_neg h0]
      · exact ih s _ tail

/-! ### The loads of a block transfer -/

/-- What the loads of a block transfer keep: everything but registers, where R15 is loaded the PC, and
the count of free values drawn, a device having answered. -/
structure State.OnlyRegs (s t : State) : Prop where
  cpsr : t.cpsr = s.cpsr
  spsrFiq : t.spsrFiq = s.spsrFiq
  spsrIrq : t.spsrIrq = s.spsrIrq
  spsrSvc : t.spsrSvc = s.spsrSvc
  spsrAbt : t.spsrAbt = s.spsrAbt
  spsrUnd : t.spsrUnd = s.spsrUnd
  mem : t.mem = s.mem
  stored : t.stored = s.stored
  lines : t.lines = s.lines
  upcoming : t.upcoming = s.upcoming
  masters : t.masters = s.masters
  resetting : t.resetting = s.resetting
  memoryMap : t.memoryMap = s.memoryMap
  bigend : t.bigend = s.bigend
  unallocTraps : t.unallocTraps = s.unallocTraps

theorem State.OnlyRegs.refl (s : State) : s.OnlyRegs s := by constructor <;> rfl

theorem State.OnlyRegs.trans {s t u : State} (h : s.OnlyRegs t) (k : t.OnlyRegs u) : s.OnlyRegs u :=
  ⟨k.cpsr.trans h.cpsr, k.spsrFiq.trans h.spsrFiq, k.spsrIrq.trans h.spsrIrq, k.spsrSvc.trans h.spsrSvc,
    k.spsrAbt.trans h.spsrAbt, k.spsrUnd.trans h.spsrUnd, k.mem.trans h.mem, k.stored.trans h.stored,
    k.lines.trans h.lines, k.upcoming.trans h.upcoming, k.masters.trans h.masters, k.resetting.trans h.resetting,
    k.memoryMap.trans h.memoryMap, k.bigend.trans h.bigend, k.unallocTraps.trans h.unallocTraps⟩

theorem State.OnlyRegs.mode {s t : State} (h : s.OnlyRegs t) : t.mode = s.mode := by
  simp [State.mode, State.modeBits, h.cpsr]

theorem State.OnlyRegs.thumb {s t : State} (h : s.OnlyRegs t) : t.thumb = s.thumb := by simp [State.thumb, h.cpsr]

theorem State.OnlyRegs.readByte {s t : State} (h : s.OnlyRegs t) (a : Word) : t.readByte a = s.readByte a :=
  State.readByte_congr h.mem a

theorem State.OnlyRegs.readWord {s t : State} (h : s.OnlyRegs t) (a : Word) : t.readWord a = s.readWord a :=
  State.readWord_congr h.mem h.bigend a

theorem State.OnlyRegs.aborts {s t : State} (h : s.OnlyRegs t) (k : AccessKind) (z : Size) (a : Word) :
    t.aborts k z a = s.aborts k z a := by
  simp [State.aborts, h.lines, State.userMode, h.mode, State.outside, State.kindAt, h.memoryMap]

theorem State.OnlyRegs.onDevice {s t : State} (h : s.OnlyRegs t) (z : Size) (a : Word) :
    t.onDevice z a = s.onDevice z a := by
  simp [State.onDevice, State.kindAt, h.memoryMap]

theorem State.onlyRegs_drew (s : State) : s.OnlyRegs s.drew := by constructor <;> rfl

theorem State.onlyRegs_writeReg (s : State) (i : RegNum) (v : Word) : s.OnlyRegs (s.writeReg i v) := by
  constructor <;> simp

/-- The state a `Loaded` ends in, if it has one. -/
def Loaded.state : Loaded → Option State
  | .done t => some t
  | .aborted t => some t
  | .unwritten _ => none

theorem State.onlyRegs_loadMany {s t : State} {rs : List RegNum} {a : Word} (h : (s.loadMany rs a).state = some t) :
    s.OnlyRegs t := by
  induction rs generalizing s a with
  | nil =>
    cases h
    exact State.OnlyRegs.refl _
  | cons r rs ih =>
    simp only [State.loadMany] at h
    split at h
    · cases h
      exact State.OnlyRegs.refl _
    · split at h
      · exact ((s.onlyRegs_writeReg r _).trans (State.onlyRegs_drew _)).trans (ih h)
      · split at h
        · exact (s.onlyRegs_writeReg r _).trans (ih h)
        · cases h

/-- The loads of a block transfer write no register outside the list. -/
theorem State.getPhys_loadMany_ne {s t : State} {rs : List RegNum} {a : Word} {p : PhysReg}
    (h : (s.loadMany rs a).state = some t) (hp : ∀ r ∈ rs, phys s.mode r ≠ some p) : t.getPhys p = s.getPhys p := by
  induction rs generalizing s a with
  | nil =>
    cases h
    rfl
  | cons r rs ih =>
    simp only [State.loadMany] at h
    split at h
    · cases h
      rfl
    · have tail : ∀ r' ∈ rs, phys s.mode r' ≠ some p := fun r' hr => hp r' (List.mem_cons_of_mem _ hr)
      split at h
      · rw [ih h (by simpa using tail), State.getPhys_drew, State.getPhys_writeReg, if_neg (hp r (by simp))]
      · split at h
        · rw [ih h (by simpa using tail), State.getPhys_writeReg, if_neg (hp r (by simp))]
        · cases h

/-! ### Block transfers -/

/-- Where a block store answers a next state, the list is not empty, the lowest address is aligned, and the state is that
after the stores and the write-back, past the instruction or at the data abort. -/
theorem State.blockStore_next {s t : State} {regs : List RegNum} {start final : Word} {base : RegNum}
    (h : s.blockStore regs start base final = .next t) :
    regs ≠ [] ∧ aligned .word start = true ∧
      ((s.storeMany regs start).2 = true ∧ t = ((s.storeMany regs start).1.writeReg base final).dataAbort ∨
        (s.storeMany regs start).2 = false ∧
          t = ((s.storeMany regs start).1.writeReg base final).advanceThumb) := by
  unfold State.blockStore at h
  split at h
  · cases h
  · rename_i he
    split at h
    · rename_i ha
      refine ⟨by simpa using he, ha, ?_⟩
      simp only at h
      split at h
      · rename_i hb
        cases h
        exact .inl ⟨hb, rfl⟩
      · rename_i hb
        cases h
        exact .inr ⟨by simpa using hb, rfl⟩
    · cases h

/-- Where a block load answers a next state, the list is not empty, the lowest address is aligned, and the state is that
after the loads and the write-back: past the instruction, at the PC loaded, or at the data abort. -/
theorem State.blockLoad_next {s t : State} {regs : List RegNum} {start final : Word} {base : RegNum}
    (h : s.blockLoad regs start base final = .next t) :
    regs ≠ [] ∧ aligned .word start = true ∧
      ((∃ u, s.loadMany regs start = .aborted u ∧ t = (u.writeReg base final).dataAbort) ∨
        ∃ u, s.loadMany regs start = .done u ∧
          t = if regs.contains 15 then u.writeReg base final else (u.writeReg base final).advanceThumb) := by
  unfold State.blockLoad at h
  split at h
  · cases h
  · rename_i he
    split at h
    · rename_i ha
      refine ⟨by simpa using he, ha, ?_⟩
      split at h
      · rename_i u hu
        refine .inr ⟨u, hu, ?_⟩
        split at h
        · rename_i hc
          cases h
          rw [if_pos hc]
        · rename_i hc
          cases h
          rw [if_neg hc]
      · rename_i u hu
        cases h
        exact .inl ⟨u, hu, rfl⟩
      · cases h
    · cases h

end Sys2Proof.Machine
end

