-- ==== Sys2Proof/Laws/Results.lean ====
section
/-! SUPPORT. What the shared endings of formats 1 to 4 leave: the result, the flags and the frame, said once for each
(R142, R145, R146, R151, R160), in the terms of Sys2Proof/Safety.lean; and the frames they rest on. -/

namespace Sys2Proof.Machine

/-! ### The overflow of a sum (R40) -/

/-- Bit 31 is the sign. -/
theorem getLsbD_31_eq_sign (r : Word) : r.getLsbD 31 = decide (r.toInt < 0) := by
  rw [← BitVec.msb_eq_toInt, BitVec.msb_eq_getLsbD_last]

/-- V of `AddWithCarry` is the signed overflow of the exact sum. -/
theorem addWithCarry_overflow (a b : Word) (c : Bool) :
    (addWithCarry a b c).overflow = overflows (a.toInt + b.toInt + c.toNat) := by
  simp only [addWithCarry, overflows]
  rw [Bool.eq_iff_iff]
  simp only [decide_eq_true_eq]
  have ha := a.isLt
  have hb := b.isLt
  rw [BitVec.toInt_eq_toNat_bmod, BitVec.toInt_eq_toNat_bmod, BitVec.toInt_eq_toNat_bmod]
  simp only [BitVec.toNat_ofNat]
  rcases c <;> simp [Int.bmod] <;> omega

/-- V of `AddWithCarry(a, NOT b, c)` is the signed overflow of the exact difference. -/
theorem addWithCarry_sub_overflow (a b : Word) (c : Bool) :
    (addWithCarry a (~~~b) c).overflow = overflows (a.toInt - b.toInt - (1 - c.toNat)) := by
  have h : (~~~b).toInt = -b.toInt - 1 := by
    have hb := b.isLt
    rw [BitVec.toInt_eq_toNat_bmod, BitVec.toInt_eq_toNat_bmod, BitVec.toNat_not]
    simp [Int.bmod]
    omega
  rw [addWithCarry_overflow, h]
  congr 1
  omega

/-! ### Frames from the bits of the CPSR -/

theorem State.flagsOf_of_bits {t : State} (r : Word) (c v : Bool) (hn : t.cpsr.getLsbD 31 = r.getLsbD 31)
    (hz : t.cpsr.getLsbD 30 = (r == 0#32)) (hc : t.cpsr.getLsbD 29 = c) (hv : t.cpsr.getLsbD 28 = v) :
    t.FlagsOf r c v := by
  constructor
  · show t.cpsr.getLsbD 31 = _
    rw [hn, getLsbD_31_eq_sign]
  · show t.cpsr.getLsbD 30 = _
    rw [hz]
    rfl
  · exact hc
  · exact hv

/-- The control bits but T and the reserved bits are kept where every bit below 28 but bit 5 is. -/
theorem State.sameControl_of_bits {s t : State} (h : ∀ j, j < 28 → j ≠ 5 → t.cpsr.getLsbD j = s.cpsr.getLsbD j) :
    s.SameControl t := by
  constructor
  · exact h 7 (by omega) (by omega)
  · exact h 6 (by omega) (by omega)
  · exact psrM_eq_of_bits (fun j hj => h j (by omega) (by omega))
  · apply BitVec.eq_of_getLsbD_eq
    intro j hj
    simp only [BitVec.getLsbD_extractLsb']
    rw [h _ (by omega) (by omega)]

/-- A state that is `s` with one register number written, its CPSR and PC apart, keeps everything else. -/
theorem State.keepsBut_writeReg {s t : State} (i : RegNum) (v : Word)
    (low : ∀ j, j < 28 → j ≠ 5 → t.cpsr.getLsbD j = s.cpsr.getLsbD j)
    (h : t = { s.writeReg i v with cpsr := t.cpsr, pc := t.pc }) : s.KeepsBut t (s.named [i]) ∧ s.SameMemory t := by
  constructor
  · constructor
    · intro p hp
      rw [h]
      show (s.writeReg i v).getPhys p = _
      rw [State.getPhys_writeReg, if_neg]
      intro hh
      exact hp (by simp [State.named, hh])
    · rw [h]
      constructor <;> simp
    · exact State.sameControl_of_bits low
    · rw [h]
      constructor <;> simp
    · rw [h]
      simp
  · constructor
    · exact State.readByte_congr (by rw [h]; simp)
    · rw [h]
      simp

/-- A state that is `s`, its CPSR and PC apart, keeps everything else. -/
theorem State.keepsBut_nil {s t : State} (low : ∀ j, j < 28 → j ≠ 5 → t.cpsr.getLsbD j = s.cpsr.getLsbD j)
    (h : t = { s with cpsr := t.cpsr, pc := t.pc }) : s.KeepsBut t [] ∧ s.SameMemory t := by
  constructor
  · constructor
    · intro p _
      rw [h]
      rfl
    · rw [h]
      constructor <;> rfl
    · exact State.sameControl_of_bits low
    · rw [h]
      constructor <;> rfl
    · rw [h]
  · exact ⟨State.readByte_congr (by rw [h]), by rw [h]⟩

theorem State.loResult_of_bits (s t : State) (rd : BitVec 3) (r : Word) (c v : Bool)
    (h : t = { s.writeReg (loReg rd) r with cpsr := t.cpsr, pc := s.pc + 2#32 })
    (low : ∀ j, j < 28 → t.cpsr.getLsbD j = s.cpsr.getLsbD j) (hn : t.cpsr.getLsbD 31 = r.getLsbD 31)
    (hz : t.cpsr.getLsbD 30 = (r == 0#32)) (hc : t.cpsr.getLsbD 29 = c) (hv : t.cpsr.getLsbD 28 = v) :
    s.LoResult t rd r c v := by
  have hp : t.pc = s.pc + 2#32 := by rw [h]
  have hk := State.keepsBut_writeReg (s := s) (t := t) (loReg rd) r (fun j hj _ => low j hj) (by rw [hp]; exact h)
  constructor
  · rw [h]
    simp only [State.readReg_loReg, State.writeReg_loReg]
    exact State.getPhys_setPhys_self s _ r
  · exact State.flagsOf_of_bits r c v hn hz hc hv
  · exact low 5 (by omega)
  · exact hp
  · exact hk.1
  · exact hk.2

theorem State.flagResult_of_bits (s t : State) (r : Word) (c v : Bool) (h : t = { s with cpsr := t.cpsr, pc := s.pc + 2#32 })
    (low : ∀ j, j < 28 → t.cpsr.getLsbD j = s.cpsr.getLsbD j) (hn : t.cpsr.getLsbD 31 = r.getLsbD 31)
    (hz : t.cpsr.getLsbD 30 = (r == 0#32)) (hc : t.cpsr.getLsbD 29 = c) (hv : t.cpsr.getLsbD 28 = v) :
    s.FlagResult t r c v := by
  have hp : t.pc = s.pc + 2#32 := by rw [h]
  have hk := State.keepsBut_nil (s := s) (t := t) (fun j hj _ => low j hj) (by rw [hp]; exact h)
  exact ⟨State.flagsOf_of_bits r c v hn hz hc hv, low 5 (by omega), hp, hk.1, hk.2⟩

/-- A value written to a number other than 15, past the instruction, no flag changed. -/
theorem State.plainResult_writeReg (s t : State) (d : RegNum) (r : Word) (hd : d ≠ 15)
    (h : t = { s.writeReg d r with pc := s.pc + 2#32 }) : s.PlainResult t d r := by
  have hp : t.pc = s.pc + 2#32 := by rw [h]
  have hcp : t.cpsr = s.cpsr := by
    rw [h]
    simp
  have hk := State.keepsBut_writeReg (s := s) (t := t) d r (fun j _ _ => by rw [hcp]) (by rw [hp]; rw [h])
  refine ⟨?_, ?_, ?_, hp, hk.1, hk.2⟩
  · have hm : t.mode = s.mode := by simp [State.mode, State.modeBits, hcp]
    rcases hq : phys s.mode d with _ | q
    · exact absurd (phys_eq_none.1 hq) hd
    · rw [State.readReg_of_phys t (by rw [hm]; exact hq), h]
      show (s.writeReg d r).getPhys q = r
      rw [State.getPhys_writeReg, hq]
      simp
  · constructor <;> simp [State.flagN, State.flagZ, State.flagC, State.flagV, hcp]
  · simp [State.thumb, hcp]

/-! ### The shared endings of formats 1 to 4 -/

theorem State.writeReg_loReg_pc (s : State) (rd : BitVec 3) (r : Word) : (s.writeReg (loReg rd) r).pc = s.pc :=
  s.writeReg_pc r (loReg_ne_pcReg rd)

/-- A shift's ending always answers a next state, with this result (R145). -/
theorem State.putShifted_result (s : State) (rd : BitVec 3) (x : Shifted) :
    ∃ t, s.putShifted rd x = .next t ∧ s.LoResult t rd x.value x.carry s.flagV := by
  refine ⟨_, rfl, ?_⟩
  apply State.loResult_of_bits
  · simp [State.setNZ, State.setC, State.advanceThumb, State.writeReg_loReg_pc]
  · intro j hj
    simp only [State.setNZ, State.setC, State.advanceThumb, State.writeReg_cpsr]
    repeat rw [getLsbD_putBit _ _ _ _ (by omega)]
    repeat rw [if_neg (by omega)]
  all_goals
    simp only [State.setNZ, State.setC, State.advanceThumb, State.writeReg_cpsr]
    repeat rw [getLsbD_putBit _ _ _ _ (by omega)]
    simp
  · rfl

/-- A logical operation's ending always answers a next state, with this result (R145, R160). -/
theorem State.putLogical_result (s : State) (rd : BitVec 3) (r : Word) :
    ∃ t, s.putLogical rd r = .next t ∧ s.LoResult t rd r s.flagC s.flagV := by
  refine ⟨_, rfl, ?_⟩
  apply State.loResult_of_bits
  · simp [State.setNZ, State.advanceThumb, State.writeReg_loReg_pc]
  · intro j hj
    simp only [State.setNZ, State.advanceThumb, State.writeReg_cpsr]
    repeat rw [getLsbD_putBit _ _ _ _ (by omega)]
    repeat rw [if_neg (by omega)]
  all_goals
    simp only [State.setNZ, State.advanceThumb, State.writeReg_cpsr]
    repeat rw [getLsbD_putBit _ _ _ _ (by omega)]
    simp
  · rfl
  · rfl

/-- A sum's ending always answers a next state, with this result (R40, R146). -/
theorem State.putSum_result (s : State) (rd : BitVec 3) (x : Sum) :
    ∃ t, s.putSum rd x = .next t ∧ s.LoResult t rd x.value x.carry x.overflow := by
  refine ⟨_, rfl, ?_⟩
  apply State.loResult_of_bits
  · simp [State.setNZ, State.setC, State.setV, State.setSumFlags, State.advanceThumb, State.writeReg_loReg_pc]
  · intro j hj
    simp only [State.setNZ, State.setC, State.setV, State.setSumFlags, State.advanceThumb, State.writeReg_cpsr]
    repeat rw [getLsbD_putBit _ _ _ _ (by omega)]
    repeat rw [if_neg (by omega)]
  all_goals
    simp only [State.setNZ, State.setC, State.setV, State.setSumFlags, State.advanceThumb, State.writeReg_cpsr]
    repeat rw [getLsbD_putBit _ _ _ _ (by omega)]
    simp

/-- A comparison's ending always answers a next state, with these flags (R40, R151). -/
theorem State.compareSum_result (s : State) (x : Sum) :
    ∃ t, s.compareSum x = .next t ∧ s.FlagResult t x.value x.carry x.overflow := by
  refine ⟨_, rfl, ?_⟩
  apply State.flagResult_of_bits
  · simp [State.setNZ, State.setC, State.setV, State.setSumFlags, State.advanceThumb]
  · intro j hj
    simp only [State.setNZ, State.setC, State.setV, State.setSumFlags, State.advanceThumb]
    repeat rw [getLsbD_putBit _ _ _ _ (by omega)]
    repeat rw [if_neg (by omega)]
  all_goals
    simp only [State.setNZ, State.setC, State.setV, State.setSumFlags, State.advanceThumb]
    repeat rw [getLsbD_putBit _ _ _ _ (by omega)]
    simp

/-! ### Words in memory -/

/-- A word written is read back. -/
theorem State.readWord_writeWord (s : State) (a w : Word) : (s.writeWord a w).readWord a = some w := by
  have hb : (s.writeWord a w).bigend = s.bigend := (s.onlyMemory_writeWord a w).bigend
  unfold State.readWord
  rw [State.readByte_writeWord, State.readByte_writeWord, State.readByte_writeWord, State.readByte_writeWord, hb]
  have n1 : a ≠ a + 1#32 := by bv_omega
  have n2 : a ≠ a + 2#32 := by bv_omega
  have n3 : a ≠ a + 3#32 := by bv_omega
  have n4 : a + 1#32 ≠ a + 2#32 := by bv_omega
  have n5 : a + 1#32 ≠ a + 3#32 := by bv_omega
  have n6 : a + 2#32 ≠ a + 3#32 := by bv_omega
  simp [n1, n2, n3, n4, n5, n6, wordOfBytes_byteOfWord]

/-- A word reads the same where its four bytes do. -/
theorem State.readWord_of_bytes {s t : State} (a : Word) (hb : t.bigend = s.bigend)
    (h : ∀ j < 4, t.readByte (a + BitVec.ofNat 32 j) = s.readByte (a + BitVec.ofNat 32 j)) :
    t.readWord a = s.readWord a := by
  have h0 := h 0 (by omega)
  have h1 := h 1 (by omega)
  have h2 := h 2 (by omega)
  have h3 := h 3 (by omega)
  simp only [BitVec.add_zero] at h0 h1 h2 h3
  unfold State.readWord
  rw [h0, h1, h2, h3, hb]

end Sys2Proof.Machine
end

