-- ==== Sys2Proof/Laws/Step.lean ====
section
/-! SUPPORT. What one step can do, said once (R315, R319), and what the control transfers can answer. -/

namespace Sys2Proof.Machine

/-! ### Control transfers -/

/-- Where BX answers a next state, bit 0 of the address entered THUMB state, or bits [1:0] = 00 entered ARM state. -/
theorem State.branchExchange_next {s t : State} {a : Word} (h : s.branchExchange a = .next t) :
    a.getLsbD 0 = true ∧ t = (s.setT true).branchThumb a ∨
      a.getLsbD 0 = false ∧ a.getLsbD 1 = false ∧ t = { s.setT false with pc := a } := by
  unfold State.branchExchange at h
  split at h
  · rename_i h0
    cases h
    exact .inl ⟨h0, rfl⟩
  · rename_i h0
    split at h
    · cases h
    · rename_i h1
      cases h
      exact .inr ⟨by simpa using h0, by simpa using h1, rfl⟩

/-- A conditional branch always answers a next state: at the target or past the branch. -/
theorem State.condBranch_next {s t : State} {cond : BitVec 4} {off : BitVec 8} (h : s.condBranch cond off = .next t) :
    t = if s.condPassed cond then s.branchThumb (s.branchTarget off) else s.advanceThumb := by
  unfold State.condBranch at h
  split at h
  · rename_i hc
    cases h
    rw [if_pos hc]
  · rename_i hc
    cases h
    rw [if_neg hc]

/-- Where a conditional ARM instruction answers a next state, its condition passed and the instruction answered it, or it
failed and only the PC advanced. -/
theorem State.whenPassed_next {s t : State} {cond : BitVec 4} {r : Result} (h : s.whenPassed cond r = .next t) :
    s.condPassed cond = true ∧ r = .next t ∨ s.condPassed cond = false ∧ t = s.advanceArm := by
  unfold State.whenPassed at h
  split at h
  · rename_i hc
    exact .inl ⟨hc, h⟩
  · rename_i hc
    cases h
    exact .inr ⟨by simpa using hc, rfl⟩

/-- Where an unallocated halfword answers a next state, the platform says that it traps. -/
theorem State.unallocated_next {s t : State} (h : s.unallocated = .next t) :
    s.unallocTraps = true ∧ t = s.takeException .undefined (s.pc + 2#32) := by
  unfold State.unallocated at h
  split at h
  · rename_i hc
    cases h
    exact ⟨hc, rfl⟩
  · cases h

/-! ### The input lines -/

theorem State.advanceLines_eq (s : State) :
    s.advanceLines = { s with lines := s.upcoming.headD s.lines, upcoming := s.upcoming.tail } := by
  unfold State.advanceLines
  cases h : s.upcoming with
  | nil => cases s; simp_all
  | cons l ls => rfl

/-! ### The end of a step -/

theorem State.endStep_eq (s : State) :
    s.endStep = { s with
      mem := s.turn.after.foldl (fun m w => writeCell m w.addr.toNat w.byte) s.mem
      lines := s.upcoming.headD s.lines
      upcoming := s.upcoming.tail
      masters := s.masters.tail
      resetting := s.lines.reset } := by
  simp [State.endStep, State.advanceLines_eq, State.busWrites]

@[simp] theorem State.endStep_regs (s : State) : s.endStep.regs = s.regs := by simp [State.endStep_eq]
@[simp] theorem State.endStep_pc (s : State) : s.endStep.pc = s.pc := by simp [State.endStep_eq]
@[simp] theorem State.endStep_cpsr (s : State) : s.endStep.cpsr = s.cpsr := by simp [State.endStep_eq]
@[simp] theorem State.endStep_spsrFiq (s : State) : s.endStep.spsrFiq = s.spsrFiq := by simp [State.endStep_eq]
@[simp] theorem State.endStep_spsrIrq (s : State) : s.endStep.spsrIrq = s.spsrIrq := by simp [State.endStep_eq]
@[simp] theorem State.endStep_spsrSvc (s : State) : s.endStep.spsrSvc = s.spsrSvc := by simp [State.endStep_eq]
@[simp] theorem State.endStep_spsrAbt (s : State) : s.endStep.spsrAbt = s.spsrAbt := by simp [State.endStep_eq]
@[simp] theorem State.endStep_spsrUnd (s : State) : s.endStep.spsrUnd = s.spsrUnd := by simp [State.endStep_eq]
@[simp] theorem State.endStep_stored (s : State) : s.endStep.stored = s.stored := by simp [State.endStep_eq]
@[simp] theorem State.endStep_memoryMap (s : State) : s.endStep.memoryMap = s.memoryMap := by simp [State.endStep_eq]
@[simp] theorem State.endStep_bigend (s : State) : s.endStep.bigend = s.bigend := by simp [State.endStep_eq]
@[simp] theorem State.endStep_unallocTraps (s : State) : s.endStep.unallocTraps = s.unallocTraps := by simp [State.endStep_eq]
@[simp] theorem State.endStep_draws (s : State) : s.endStep.draws = s.draws := by simp [State.endStep_eq]
@[simp] theorem State.endStep_lines (s : State) : s.endStep.lines = s.upcoming.headD s.lines := by simp [State.endStep_eq]
@[simp] theorem State.endStep_upcoming (s : State) : s.endStep.upcoming = s.upcoming.tail := by simp [State.endStep_eq]
@[simp] theorem State.endStep_masters (s : State) : s.endStep.masters = s.masters.tail := by simp [State.endStep_eq]
@[simp] theorem State.endStep_resetting (s : State) : s.endStep.resetting = s.lines.reset := by simp [State.endStep_eq]
@[simp] theorem State.endStep_mode (s : State) : s.endStep.mode = s.mode := by simp [State.mode, State.modeBits]
@[simp] theorem State.endStep_thumb (s : State) : s.endStep.thumb = s.thumb := by simp [State.thumb]
@[simp] theorem State.getPhys_endStep (s : State) (p : PhysReg) : s.endStep.getPhys p = s.getPhys p := by
  simp [State.getPhys]

/-! ### The step -/

theorem State.workEvent_ne_reset (s : State) : s.workEvent ≠ .reset := by
  unfold State.workEvent State.fetchInstr
  repeat' split
  all_goals simp

theorem mapNext_next {f : State → State} {r : Result} {t : State} (h : mapNext f r = .next t) :
    ∃ u, r = .next u ∧ t = f u := by
  cases r with
  | next u => cases h; exact ⟨u, rfl, rfl⟩
  | fault _ => cases h
  | refused _ => cases h

/-- Everything a step can do, where it answers a next state: a reset, nothing in an illegal mode, an interrupt, a prefetch
abort, or the instruction at the PC; in each case on the state the other masters' writes after the fetch have left, and with
the end of the step after it. -/
theorem step_next {s t : State} (h : step s = .next t) :
    (s.nextEvent = .reset ∧ t = s.interrupted.takeReset.endStep) ∨
    (s.nextEvent = .stuck ∧ t = s.midBus.endStep) ∨
    (s.nextEvent = .fiq ∧ t = (s.midBus.takeException .fiq (s.pc + 4#32)).endStep) ∨
    (s.nextEvent = .irq ∧ t = (s.midBus.takeException .irq (s.pc + 4#32)).endStep) ∨
    (s.nextEvent = .prefetchAbort ∧ t = (s.midBus.takeException .prefetchAbort (s.pc + 4#32)).endStep) ∨
    ∃ i u, s.nextEvent = .run i ∧ exec i s.midBus = .next u ∧ t = u.endStep := by
  unfold step at h
  split at h
  · rename_i hr
    cases h
    exact .inl ⟨by simp [State.nextEvent, hr], rfl⟩
  · rename_i hr
    have he : s.nextEvent = s.workEvent := by simp [State.nextEvent, hr]
    obtain ⟨u, hu, rfl⟩ := mapNext_next h
    rw [he]
    cases hw : s.workEvent <;> rw [hw] at hu <;> simp only [State.work] at hu
    case reset => exact absurd hw s.workEvent_ne_reset
    case stuck => cases hu; simp
    case fiq => cases hu; simp
    case irq => cases hu; simp
    case prefetchAbort => cases hu; simp
    case run i => simp [hu]
    case fault => cases hu
    case refuse => cases hu

/-- The instruction a boundary runs was decoded from the code at the PC. -/
theorem State.nextEvent_run {s : State} {i : Instr} (h : s.nextEvent = .run i) :
    ∃ c, s.fetchCode = some c ∧ decodeCode c = .ok i ∧ s.fetchStored = false := by
  unfold State.nextEvent State.workEvent at h
  repeat' split at h
  all_goals try cases h
  unfold State.fetchInstr at h
  repeat' split at h
  all_goals try cases h
  rename_i c hc hs _ hd
  exact ⟨c, hc, hd, by simpa using hs⟩

/-- The halfword decoder makes THUMB instructions only. -/
theorem decodeThumb_isThumb (w : Half) : (decodeThumb w).isThumb = true := by
  unfold decodeThumb decodeAddSub decodeHiReg decodeAlu decodeBx decodeRegOffset decodeMisc decodeCond
  repeat' split
  all_goals rfl

/-- The word decoder makes well-formed ARM instructions only. -/
theorem decodeArm_ok {w : Word} {i : Instr} (h : decodeArm w = .ok i) : i.isThumb = false ∧ i.wf = true := by
  unfold decodeArm at h
  simp only at h
  split at h
  · rename_i hc
    repeat' split at h
    all_goals cases h
    all_goals exact ⟨rfl, hc⟩
  · cases h

/-- The code fetched is a halfword in THUMB state and a word in ARM state. -/
theorem State.fetchCode_kind {s : State} {c : Code} (h : s.fetchCode = some c) :
    (s.thumb = true ∧ ∃ w, c = .half w) ∨ (s.thumb = false ∧ ∃ w, c = .word w) := by
  unfold State.fetchCode at h
  split at h
  · rename_i ht
    obtain ⟨w, -, rfl⟩ := Option.map_eq_some_iff.mp h
    exact .inl ⟨ht, w, rfl⟩
  · rename_i ht
    obtain ⟨w, -, rfl⟩ := Option.map_eq_some_iff.mp h
    exact .inr ⟨by simpa using ht, w, rfl⟩

end Sys2Proof.Machine
end

