-- ==== Sys2Proof/Laws/Work.lean ====
section
/-! SUPPORT. The other bus masters' writes, the work a reset abandons, and the idle loop, each said once (R334, R361, R367). -/

namespace Sys2Proof.Machine

variable (s : State)

/-! ### Other bus masters -/

theorem readCell_foldl_writeCell (ws : List BusWrite) (m : List Host.Cell) (a : Word) :
    readCell (ws.foldl (fun m w => writeCell m w.addr.toNat w.byte) m) a.toNat = afterWrites ws a (readCell m a.toNat) := by
  induction ws generalizing m with
  | nil => rfl
  | cons w ws ih =>
    have : (a.toNat = w.addr.toNat) = (w.addr = a) := propext (BitVec.toNat_inj.trans eq_comm)
    simp only [List.foldl_cons, afterWrites, ih, readCell_writeCell, this]

/-- A byte after some writes of other masters holds the last value they gave it. -/
theorem State.readByte_busWrites (ws : List BusWrite) (a : Word) :
    (s.busWrites ws).readByte a = afterWrites ws a (s.readByte a) := readCell_foldl_writeCell ws s.mem a

theorem State.readByte_midBus (a : Word) : s.midBus.readByte a = afterWrites s.turn.between a (s.readByte a) :=
  s.readByte_busWrites _ a

theorem State.readByte_endStep (a : Word) : s.endStep.readByte a = afterWrites s.turn.after a (s.readByte a) := by
  simp only [State.readByte, State.endStep_eq]
  exact readCell_foldl_writeCell _ _ a

theorem afterWrites_append (vs ws : List BusWrite) (a : Word) (old : Option Byte) :
    afterWrites (vs ++ ws) a old = afterWrites ws a (afterWrites vs a old) := by simp [afterWrites]

/-- A byte that holds a value holds one after the other masters' writes. -/
theorem isSome_afterWrites (ws : List BusWrite) (a : Word) {old : Option Byte} (h : old.isSome) :
    (afterWrites ws a old).isSome := by
  induction ws generalizing old with
  | nil => exact h
  | cons w ws ih =>
    refine ih ?_
    show (if w.addr = a then some w.byte else old).isSome = true
    split
    · rfl
    · exact h

/-- The other masters' writes keep the canonical form. -/
theorem foldl_writeCell_wf (ws : List BusWrite) {m : List Host.Cell} (h : Memory.wf m) :
    Memory.wf (ws.foldl (fun m w => writeCell m w.addr.toNat w.byte) m) := by
  induction ws generalizing m with
  | nil => exact h
  | cons w ws ih => exact ih (writeCell_wf h w.addr.isLt)

theorem State.midBus_wf (h : Memory.wf s.mem) : Memory.wf s.midBus.mem := foldl_writeCell_wf _ h

theorem State.endStep_wf (h : Memory.wf s.mem) : Memory.wf s.endStep.mem := by
  rw [State.endStep_eq]
  exact foldl_writeCell_wf _ h

/-! ### The work a reset abandons -/

variable (after : Option State)

@[simp] theorem State.abandon_pc : (s.abandon after).pc = s.pc := by simp only [State.abandon]
@[simp] theorem State.abandon_lines : (s.abandon after).lines = s.lines := by simp only [State.abandon]
@[simp] theorem State.abandon_upcoming : (s.abandon after).upcoming = s.upcoming := by simp only [State.abandon]
@[simp] theorem State.abandon_masters : (s.abandon after).masters = s.masters := by simp only [State.abandon]
@[simp] theorem State.abandon_resetting : (s.abandon after).resetting = s.resetting := by simp only [State.abandon]
@[simp] theorem State.abandon_memoryMap : (s.abandon after).memoryMap = s.memoryMap := by simp only [State.abandon]
@[simp] theorem State.abandon_bigend : (s.abandon after).bigend = s.bigend := by simp only [State.abandon]
@[simp] theorem State.abandon_unallocTraps : (s.abandon after).unallocTraps = s.unallocTraps := by simp only [State.abandon]
@[simp] theorem State.abandon_stored : (s.abandon after).stored = (after.getD s).stored := by simp only [State.abandon]

/-- A register the abandoned work was not about to change is kept. -/
theorem State.getPhys_abandon {u : State} {p : PhysReg} (h : u.getPhys p = s.getPhys p) :
    (s.abandon (some u)).getPhys p = s.getPhys p := by
  simp only [State.getPhys] at h ⊢
  simp [State.abandon, changing, h]

/-- An SPSR the abandoned work was not about to change is kept. -/
theorem State.spsrOf_abandon {u : State} {m : Mode} (h : u.spsrOf m = s.spsrOf m) :
    (s.abandon (some u)).spsrOf m = s.spsrOf m := by
  cases m <;> simp_all [State.spsrOf, State.abandon, changing]

/-- A bit of the CPSR the abandoned work was not about to change is kept. -/
theorem State.cpsr_abandon {u : State} {j : Nat} (h : u.cpsr.getLsbD j = s.cpsr.getLsbD j) :
    (s.abandon (some u)).cpsr.getLsbD j = s.cpsr.getLsbD j := by
  simp [State.abandon, h]

theorem readCell_map_abandoned (m : List Host.Cell) (f : Nat → Byte → Byte) (a : Nat) :
    readCell (m.map (fun c => (c.1, f c.1 c.2))) a = (readCell m a).map (f a) := by
  induction m with
  | nil => rfl
  | cons c m ih =>
    simp only [List.map_cons, readCell]
    split
    · rename_i h; simp [h]
    · exact ih

/-- Every byte after a reset has abandoned some work: a free value where the work was about to change it. -/
theorem State.readByte_abandon (a : Word) :
    (s.abandon after).readByte a = ((after.getD s).readByte a).map (fun b =>
      if changing after (fun t => t.readByte a) s then Config.abandonedByte s.draws a.toNat else b) :=
  readCell_map_abandoned _ (fun n b =>
    if changing after (fun t => readCell t.mem n) s then Config.abandonedByte s.draws n else b) _

/-- Abandoning some work keeps the canonical form. -/
theorem State.abandon_wf (h : Memory.wf (after.getD s).mem) : Memory.wf (s.abandon after).mem := by
  refine ⟨?_, ?_⟩
  · simp only [State.abandon, List.pairwise_map]
    exact h.1
  · intro c hc
    simp only [State.abandon, List.mem_map] at hc
    obtain ⟨d, hd, rfl⟩ := hc
    exact h.2 d hd

/-! ### The idle loop -/

/-- Where the machine is idle, a step lets the other masters write and the lines take their next levels, and nothing else. -/
theorem State.step_of_idle (h : s.idle = true) : step s = .next s.midBus.endStep := by
  unfold State.idle at h
  split at h
  · rename_i i hi
    have hr : s.lines.reset = false := by
      cases hr : s.lines.reset
      · rfl
      · simp [State.nextEvent, hr] at hi
    have hw : s.workEvent = .run i := by simpa [State.nextEvent, hr] using hi
    have he : exec i s.midBus = .next s.midBus := by
      have := of_decide_eq_true h
      cases hx : exec i s.midBus <;> simp_all [nextState?]
    simp [step, hr, hw, State.work, he, mapNext]
  · cases h

end Sys2Proof.Machine
end

