-- ==== Sys2Proof/Tests/Slice0.lean ====
section
/-! SUPPORT. The model's own tests. A decoding test's words are written out from the `encoding` column of
spec/opcode_table.json. A meaning test's start and result are a row of 96_derived_vectors.md or of section 3 of
95_test_vectors.md. A witness theorem shows a state and operands that meet the hypotheses of an obligation. -/

namespace Sys2Proof.Tests

open Sys2Proof.Machine

/-! ### Small states and what a test looks at -/

/-- User mode, THUMB state, interrupts enabled, the flags NZCV given, the PC 0x1000: the default of 96_derived_vectors.md. -/
def user (nzcv : BitVec 4) : State := { State.reset with cpsr := nzcv ++ 0x0000030#28, pc := 0x1000#32 }

/-- ARM state in a mode, the flags NZCV given, I set but in User mode, the PC 0x2000. -/
def arm (m : Mode) (nzcv : BitVec 4) : State :=
  { State.reset with cpsr := nzcv ++ (if m = .usr then 0x000000#23 else 0x000004#23) ++ m.bits, pc := 0x2000#32 }

/-- A register of the current mode given a value. -/
def put (i : RegNum) (v : Word) (s : State) : State := s.writeReg i v

/-- A word laid into memory by the host. -/
def word (a w : Word) (s : State) : State := s.placeBytes ((Code.word w).bytes s.bigend) a

/-- The state elsewhere in memory. -/
def atPc (a : Word) (s : State) : State := { s with pc := a }

/-- BIGEND HIGH. -/
def big (s : State) : State := { s with bigend := true }

/-- Data accesses to some addresses answered with ABORT. -/
def abortData (lo hi : Word) (s : State) : State :=
  { s with lines := { s.lines with aborts := [⟨lo, hi, false, true, true, true, true⟩] } }

/-- A platform with RAM at 0 to 0x2FFF, ROM at 0x4000 to 0x4FFF, a device at 0x5000 to 0x5FFF and nothing elsewhere. -/
def mapped (s : State) : State :=
  { s with memoryMap := [⟨0x0000#32, 0x2FFF#32, .ram⟩, ⟨0x4000#32, 0x4FFF#32, .rom⟩, ⟨0x5000#32, 0x5FFF#32, .device⟩] }

/-- A register of the mode reached, and the flags NZCV. -/
def regFlags (r : Result) (i : RegNum) : Option (Word × BitVec 4) :=
  match r with
  | .next t => some (t.readReg i, t.cpsr.extractLsb' 28 4)
  | _ => none

/-- A register of the mode reached, and the PC. -/
def regPc (r : Result) (i : RegNum) : Option (Word × Word) :=
  match r with
  | .next t => some (t.readReg i, t.pc)
  | _ => none

/-- A word of memory, and the PC. -/
def wordPc (r : Result) (a : Word) : Option (Option Word × Word) :=
  match r with
  | .next t => some (t.readWord a, t.pc)
  | _ => none

/-- The low halfword of memory at an address. -/
def halfAt (r : Result) (a : Word) : Option Half :=
  match r with
  | .next t => t.readHalf a
  | _ => none

/-- A byte of memory. -/
def byteAt (r : Result) (a : Word) : Option Byte :=
  match r with
  | .next t => t.readByte a
  | _ => none

/-- The CPSR and the PC. -/
def statusPc (r : Result) : Option (Word × Word) :=
  match r with
  | .next t => some (t.cpsr, t.pc)
  | _ => none

/-- The refusal an instruction ends in. -/
def refusal (r : Result) : Option Refusal :=
  match r with
  | .refused q => some q
  | _ => none

/-- The fault an instruction ends in. -/
def fault (r : Result) : Option Fault :=
  match r with
  | .fault q => some q
  | _ => none

/-- Whether an instruction answers a next state. -/
def goesOn (r : Result) : Bool :=
  match r with
  | .next _ => true
  | _ => false

theorem exists_next {r : Result} (h : goesOn r = true) : ∃ t, r = .next t := by
  cases r with
  | next t => exact ⟨t, rfl⟩
  | fault _ => cases h
  | refused _ => cases h

/-! ### Well-formed instructions: the one check, at each constructor it stands at -/

theorem test_wf_thumb : (Instr.lslImm 7#3 7#3 31#5).wf = true := by decide

theorem test_wf_armBx_reserved : (Instr.armBx 15#4 0#4).wf = false := by decide
theorem test_wf_armMovsPcLr_reserved : (Instr.armMovsPcLr 15#4).wf = false := by decide
theorem test_wf_armSubsPcLr4_reserved : (Instr.armSubsPcLr4 15#4).wf = false := by decide
theorem test_wf_armSubsPcLr8_reserved : (Instr.armSubsPcLr8 15#4).wf = false := by decide
theorem test_wf_armMovPcLr_reserved : (Instr.armMovPcLr 15#4).wf = false := by decide
theorem test_wf_armB_reserved : (Instr.armB 15#4 0#24).wf = false := by decide
theorem test_wf_armBl_reserved : (Instr.armBl 15#4 0#24).wf = false := by decide
theorem test_wf_armSwi_reserved : (Instr.armSwi 15#4 0#24).wf = false := by decide

/-! ### Decoding: the encoding of every row, its fields filled in -/

theorem test_decode_format1 :
    decodeThumb 0b0000010110001110#16 = .lslImm 6#3 1#3 22#5 ∧
    decodeThumb 0b0000110110001110#16 = .lsrImm 6#3 1#3 22#5 ∧
    decodeThumb 0b0001010110001110#16 = .asrImm 6#3 1#3 22#5 := by
  decide

theorem test_decode_format2 :
    decodeThumb 0b0001100011001110#16 = .addReg 6#3 1#3 3#3 ∧
    decodeThumb 0b0001110011001110#16 = .addImm3 6#3 1#3 3#3 ∧
    decodeThumb 0b0001101011001110#16 = .subReg 6#3 1#3 3#3 ∧
    decodeThumb 0b0001111011001110#16 = .subImm3 6#3 1#3 3#3 := by
  decide

theorem test_decode_format3 :
    decodeThumb 0b0010011010110001#16 = .movImm8 6#3 177#8 ∧
    decodeThumb 0b0010111010110001#16 = .cmpImm8 6#3 177#8 ∧
    decodeThumb 0b0011011010110001#16 = .addImm8 6#3 177#8 ∧
    decodeThumb 0b0011111010110001#16 = .subImm8 6#3 177#8 := by
  decide

theorem test_decode_format4 :
    decodeThumb 0b0100000000001110#16 = .andReg 6#3 1#3 ∧
    decodeThumb 0b0100000001001110#16 = .eorReg 6#3 1#3 ∧
    decodeThumb 0b0100000010001110#16 = .lslReg 6#3 1#3 ∧
    decodeThumb 0b0100000011001110#16 = .lsrReg 6#3 1#3 ∧
    decodeThumb 0b0100000100001110#16 = .asrReg 6#3 1#3 ∧
    decodeThumb 0b0100000101001110#16 = .adcReg 6#3 1#3 ∧
    decodeThumb 0b0100000110001110#16 = .sbcReg 6#3 1#3 ∧
    decodeThumb 0b0100000111001110#16 = .rorReg 6#3 1#3 ∧
    decodeThumb 0b0100001000001110#16 = .tstReg 6#3 1#3 ∧
    decodeThumb 0b0100001001001110#16 = .negReg 6#3 1#3 ∧
    decodeThumb 0b0100001010001110#16 = .cmpReg 6#3 1#3 ∧
    decodeThumb 0b0100001011001110#16 = .cmnReg 6#3 1#3 ∧
    decodeThumb 0b0100001100001110#16 = .orrReg 6#3 1#3 ∧
    decodeThumb 0b0100001101001110#16 = .mulReg 6#3 1#3 ∧
    decodeThumb 0b0100001110001110#16 = .bicReg 6#3 1#3 ∧
    decodeThumb 0b0100001111001110#16 = .mvnReg 6#3 1#3 := by
  decide

theorem test_decode_format5 :
    decodeThumb 0b0100010001001110#16 = .addRdHs 6#3 1#3 ∧
    decodeThumb 0b0100010010001110#16 = .addHdRs 6#3 1#3 ∧
    decodeThumb 0b0100010011001110#16 = .addHdHs 6#3 1#3 ∧
    decodeThumb 0b0100010101001110#16 = .cmpRdHs 6#3 1#3 ∧
    decodeThumb 0b0100010110001110#16 = .cmpHdRs 6#3 1#3 ∧
    decodeThumb 0b0100010111001110#16 = .cmpHdHs 6#3 1#3 ∧
    decodeThumb 0b0100011001001110#16 = .movRdHs 6#3 1#3 ∧
    decodeThumb 0b0100011010001110#16 = .movHdRs 6#3 1#3 ∧
    decodeThumb 0b0100011011001110#16 = .movHdHs 6#3 1#3 ∧
    decodeThumb 0b0100011100001000#16 = .bxRs 1#3 ∧
    decodeThumb 0b0100011101001000#16 = .bxHs 1#3 ∧
    decodeThumb 0b0100010000101001#16 = .undefAddLoLo 41#6 ∧
    decodeThumb 0b0100010100101001#16 = .undefCmpLoLo 41#6 ∧
    decodeThumb 0b0100011000101001#16 = .undefMovLoLo 41#6 ∧
    decodeThumb 0b0100011111010011#16 = .undefBxH1 83#7 ∧
    decodeThumb 0b0100011100110001#16 = .bxLowBits1 6#4 ∧
    decodeThumb 0b0100011100110010#16 = .bxLowBits2 6#4 ∧
    decodeThumb 0b0100011100110011#16 = .bxLowBits3 6#4 ∧
    decodeThumb 0b0100011100110100#16 = .bxLowBits4 6#4 ∧
    decodeThumb 0b0100011100110101#16 = .bxLowBits5 6#4 ∧
    decodeThumb 0b0100011100110110#16 = .bxLowBits6 6#4 ∧
    decodeThumb 0b0100011100110111#16 = .bxLowBits7 6#4 := by
  decide

theorem test_decode_format6 :
    decodeThumb 0b0100111010110001#16 = .ldrPc 6#3 177#8 := by
  decide

theorem test_decode_format7 :
    decodeThumb 0b0101000011100110#16 = .strReg 6#3 4#3 3#3 ∧
    decodeThumb 0b0101010011100110#16 = .strbReg 6#3 4#3 3#3 ∧
    decodeThumb 0b0101100011100110#16 = .ldrReg 6#3 4#3 3#3 ∧
    decodeThumb 0b0101110011100110#16 = .ldrbReg 6#3 4#3 3#3 := by
  decide

theorem test_decode_format8 :
    decodeThumb 0b0101001011100110#16 = .strhReg 6#3 4#3 3#3 ∧
    decodeThumb 0b0101101011100110#16 = .ldrhReg 6#3 4#3 3#3 ∧
    decodeThumb 0b0101011011100110#16 = .ldsbReg 6#3 4#3 3#3 ∧
    decodeThumb 0b0101111011100110#16 = .ldshReg 6#3 4#3 3#3 := by
  decide

theorem test_decode_format9 :
    decodeThumb 0b0110010110100110#16 = .strImm 6#3 4#3 22#5 ∧
    decodeThumb 0b0110110110100110#16 = .ldrImm 6#3 4#3 22#5 ∧
    decodeThumb 0b0111010110100110#16 = .strbImm 6#3 4#3 22#5 ∧
    decodeThumb 0b0111110110100110#16 = .ldrbImm 6#3 4#3 22#5 := by
  decide

theorem test_decode_format10 :
    decodeThumb 0b1000010110100110#16 = .strhImm 6#3 4#3 22#5 ∧
    decodeThumb 0b1000110110100110#16 = .ldrhImm 6#3 4#3 22#5 := by
  decide

theorem test_decode_format11 :
    decodeThumb 0b1001011010110001#16 = .strSp 6#3 177#8 ∧
    decodeThumb 0b1001111010110001#16 = .ldrSp 6#3 177#8 := by
  decide

theorem test_decode_format12 :
    decodeThumb 0b1010011010110001#16 = .addPc 6#3 177#8 ∧
    decodeThumb 0b1010111010110001#16 = .addSp 6#3 177#8 := by
  decide

theorem test_decode_format13 :
    decodeThumb 0b1011000001011001#16 = .addSpPos 89#7 ∧
    decodeThumb 0b1011000011011001#16 = .addSpNeg 89#7 := by
  decide

theorem test_decode_format14 :
    decodeThumb 0b1011010001101001#16 = .push 105#8 ∧
    decodeThumb 0b1011010101101001#16 = .pushLr 105#8 ∧
    decodeThumb 0b1011110001101001#16 = .pop 105#8 ∧
    decodeThumb 0b1011110101101001#16 = .popPc 105#8 := by
  decide

theorem test_decode_format15 :
    decodeThumb 0b1100010001101001#16 = .stmia 4#3 105#8 ∧
    decodeThumb 0b1100110001101001#16 = .ldmia 4#3 105#8 := by
  decide

theorem test_decode_format16 :
    decodeThumb 0b1101000010110001#16 = .beq 177#8 ∧
    decodeThumb 0b1101000110110001#16 = .bne 177#8 ∧
    decodeThumb 0b1101001010110001#16 = .bcs 177#8 ∧
    decodeThumb 0b1101001110110001#16 = .bcc 177#8 ∧
    decodeThumb 0b1101010010110001#16 = .bmi 177#8 ∧
    decodeThumb 0b1101010110110001#16 = .bpl 177#8 ∧
    decodeThumb 0b1101011010110001#16 = .bvs 177#8 ∧
    decodeThumb 0b1101011110110001#16 = .bvc 177#8 ∧
    decodeThumb 0b1101100010110001#16 = .bhi 177#8 ∧
    decodeThumb 0b1101100110110001#16 = .bls 177#8 ∧
    decodeThumb 0b1101101010110001#16 = .bge 177#8 ∧
    decodeThumb 0b1101101110110001#16 = .blt 177#8 ∧
    decodeThumb 0b1101110010110001#16 = .bgt 177#8 ∧
    decodeThumb 0b1101110110110001#16 = .ble 177#8 ∧
    decodeThumb 0b1101111010100110#16 = .undefCond14 166#8 := by
  decide

theorem test_decode_format17 :
    decodeThumb 0b1101111110110001#16 = .swi 177#8 := by
  decide

theorem test_decode_format18 :
    decodeThumb 0b1110010110001110#16 = .b 1422#11 := by
  decide

theorem test_decode_format19 :
    decodeThumb 0b1111010110001110#16 = .blHigh 1422#11 ∧
    decodeThumb 0b1111110110001110#16 = .blLow 1422#11 := by
  decide

theorem test_decode_unallocated :
    decodeThumb 0b1011000110100110#16 = .unallocB1 166#8 ∧
    decodeThumb 0b1011001010100110#16 = .unallocB2 166#8 ∧
    decodeThumb 0b1011001110100110#16 = .unallocB3 166#8 ∧
    decodeThumb 0b1011011010100110#16 = .unallocB6 166#8 ∧
    decodeThumb 0b1011011110100110#16 = .unallocB7 166#8 ∧
    decodeThumb 0b1011100010100110#16 = .unallocB8 166#8 ∧
    decodeThumb 0b1011100110100110#16 = .unallocB9 166#8 ∧
    decodeThumb 0b1011101010100110#16 = .unallocBA 166#8 ∧
    decodeThumb 0b1011101110100110#16 = .unallocBB 166#8 ∧
    decodeThumb 0b1011111010100110#16 = .unallocBE 166#8 ∧
    decodeThumb 0b1011111110100110#16 = .unallocBF 166#8 ∧
    decodeThumb 0b1110110100110100#16 = .unallocE8 1332#11 := by
  decide

theorem test_decode_arm :
    decodeTableWord 32 0xD12FFF17 = some (.armBx 13#4 7#4) ∧
    decodeTableWord 32 0xD1B0F00E = some (.armMovsPcLr 13#4) ∧
    decodeTableWord 32 0xD25EF004 = some (.armSubsPcLr4 13#4) ∧
    decodeTableWord 32 0xD25EF008 = some (.armSubsPcLr8 13#4) ∧
    decodeTableWord 32 0xD1A0F00E = some (.armMovPcLr 13#4) ∧
    decodeTableWord 32 0xDA80005A = some (.armB 13#4 8388698#24) ∧
    decodeTableWord 32 0xDB80005A = some (.armBl 13#4 8388698#24) ∧
    decodeTableWord 32 0xDF40005B = some (.armSwi 13#4 4194395#24) := by
  decide

/-! ### Meanings: a row of 96_derived_vectors.md each, format by format -/

theorem test_lslImm : regFlags (exec (.lslImm 0#3 1#3 1#5) (put 1 0x80000001#32 (user 1#4))) 0 = some (2#32, 3#4) := by decide
theorem test_lslImm_zero : regFlags (exec (.lslImm 0#3 1#3 0#5) (put 1 0x80000001#32 (user 2#4))) 0 =
    some (0x80000001#32, 10#4) := by decide
theorem test_lsrImm : regFlags (exec (.lsrImm 0#3 1#3 1#5) (put 1 3#32 (user 0#4))) 0 = some (1#32, 2#4) := by decide
theorem test_lsrImm_32 : regFlags (exec (.lsrImm 0#3 1#3 0#5) (put 1 0x80000000#32 (user 1#4))) 0 = some (0#32, 7#4) := by decide
theorem test_asrImm : regFlags (exec (.asrImm 0#3 1#3 4#5) (put 1 0x80000008#32 (user 0#4))) 0 =
    some (0xF8000000#32, 10#4) := by decide
theorem test_asrImm_32 : regFlags (exec (.asrImm 0#3 1#3 0#5) (put 1 0x80000000#32 (user 0#4))) 0 =
    some (0xFFFFFFFF#32, 10#4) := by decide
theorem test_addReg_overflow : regFlags (exec (.addReg 0#3 3#3 4#3) (put 3 0x7FFFFFFF#32 (put 4 1#32 (user 0#4)))) 0 =
    some (0x80000000#32, 9#4) := by decide
theorem test_addReg_carry : regFlags (exec (.addReg 0#3 3#3 4#3) (put 3 0x80000000#32 (put 4 0x80000000#32 (user 0#4)))) 0 =
    some (0#32, 7#4) := by decide
theorem test_addImm3 : regFlags (exec (.addImm3 1#3 0#3 7#3) (put 0 0xFFFFFFFC#32 (user 0#4))) 1 = some (3#32, 2#4) := by decide
theorem test_subReg_borrow : regFlags (exec (.subReg 0#3 3#3 4#3) (put 3 0#32 (put 4 1#32 (user 0#4)))) 0 =
    some (0xFFFFFFFF#32, 8#4) := by decide
theorem test_subReg_overflow : regFlags (exec (.subReg 0#3 3#3 4#3) (put 3 0x80000000#32 (put 4 1#32 (user 0#4)))) 0 =
    some (0x7FFFFFFF#32, 3#4) := by decide
theorem test_subImm3 : regFlags (exec (.subImm3 6#3 2#3 6#3) (put 2 3#32 (user 0#4))) 6 = some (0xFFFFFFFD#32, 8#4) := by decide
theorem test_movImm8 : regFlags (exec (.movImm8 0#3 0#8) (user 11#4)) 0 = some (0#32, 7#4) := by decide
theorem test_cmpImm8 : regFlags (exec (.cmpImm8 2#3 62#8) (put 2 0x80000000#32 (user 0#4))) 2 =
    some (0x80000000#32, 3#4) := by decide
theorem test_addImm8 : regFlags (exec (.addImm8 1#3 255#8) (put 1 0x7FFFFF01#32 (user 0#4))) 1 =
    some (0x80000000#32, 9#4) := by decide
theorem test_subImm8 : regFlags (exec (.subImm8 6#3 145#8) (user 0#4)) 6 = some (0xFFFFFF6F#32, 8#4) := by decide

theorem test_andReg : regFlags (exec (.andReg 0#3 1#3) (put 0 0xF0F0F0F0#32 (put 1 0xFF00FF0#32 (user 3#4)))) 0 =
    some (0x00F000F0#32, 3#4) := by decide
theorem test_eorReg : regFlags (exec (.eorReg 3#3 4#3) (put 3 0xFFFFFFFF#32 (put 4 0xFFFFFFFF#32 (user 3#4)))) 3 =
    some (0#32, 7#4) := by decide
theorem test_lslReg_32 : regFlags (exec (.lslReg 0#3 1#3) (put 0 1#32 (put 1 0x20#32 (user 0#4)))) 0 = some (0#32, 6#4) := by decide
theorem test_lslReg_256 : regFlags (exec (.lslReg 0#3 1#3) (put 0 1#32 (put 1 0x100#32 (user 2#4)))) 0 = some (1#32, 2#4) := by decide
theorem test_lsrReg_32 : regFlags (exec (.lsrReg 0#3 1#3) (put 0 0x80000000#32 (put 1 0x20#32 (user 0#4)))) 0 =
    some (0#32, 6#4) := by decide
theorem test_lsrReg_33 : regFlags (exec (.lsrReg 0#3 1#3) (put 0 0x80000000#32 (put 1 0x21#32 (user 2#4)))) 0 =
    some (0#32, 4#4) := by decide
theorem test_asrReg_40 : regFlags (exec (.asrReg 0#3 1#3) (put 0 0x80000000#32 (put 1 0x28#32 (user 0#4)))) 0 =
    some (0xFFFFFFFF#32, 10#4) := by decide
theorem test_asrReg_255 : regFlags (exec (.asrReg 0#3 1#3) (put 0 0x40000000#32 (put 1 0xFF#32 (user 2#4)))) 0 =
    some (0#32, 4#4) := by decide
theorem test_adcReg : regFlags (exec (.adcReg 0#3 0#3) (put 0 3#32 (user 2#4))) 0 = some (7#32, 0#4) := by decide
theorem test_sbcReg : regFlags (exec (.sbcReg 0#3 1#3) (put 0 5#32 (put 1 5#32 (user 0#4)))) 0 =
    some (0xFFFFFFFF#32, 8#4) := by decide
theorem test_rorReg_36 : regFlags (exec (.rorReg 1#3 0#3) (put 1 0xF1#32 (put 0 0x24#32 (user 0#4)))) 1 =
    some (0x1000000F#32, 0#4) := by decide
theorem test_rorReg_32 : regFlags (exec (.rorReg 1#3 0#3) (put 1 0x80000001#32 (put 0 0x20#32 (user 0#4)))) 1 =
    some (0x80000001#32, 10#4) := by decide
theorem test_tstReg : regFlags (exec (.tstReg 0#3 1#3) (put 0 0x80000000#32 (put 1 0x7FFFFFFF#32 (user 3#4)))) 0 =
    some (0x80000000#32, 7#4) := by decide
theorem test_negReg : regFlags (exec (.negReg 5#3 3#3) (put 3 0x80000000#32 (user 0#4))) 5 = some (0x80000000#32, 9#4) := by decide
theorem test_cmpReg : regFlags (exec (.cmpReg 2#3 6#3) (put 2 0x7FFFFFFF#32 (put 6 0xFFFFFFFF#32 (user 0#4)))) 2 =
    some (0x7FFFFFFF#32, 9#4) := by decide
theorem test_cmnReg : regFlags (exec (.cmnReg 0#3 1#3) (put 0 1#32 (put 1 0xFFFFFFFF#32 (user 0#4)))) 0 = some (1#32, 6#4) := by decide
theorem test_orrReg : regFlags (exec (.orrReg 0#3 1#3) (user 11#4)) 0 = some (0#32, 7#4) := by decide
theorem test_mulReg : regPc (exec (.mulReg 0#3 7#3) (put 0 0xFFFFFFFF#32 (put 7 3#32 (user 1#4)))) 0 =
    some (0xFFFFFFFD#32, 0x1002#32) := by decide
theorem test_bicReg : regFlags (exec (.bicReg 0#3 1#3) (put 0 0xFFFFFFFF#32 (put 1 0xFFFF#32 (user 3#4)))) 0 =
    some (0xFFFF0000#32, 11#4) := by decide
theorem test_mvnReg : regFlags (exec (.mvnReg 0#3 1#3) (put 1 0xFFFFFFFF#32 (user 3#4))) 0 = some (0#32, 7#4) := by decide

theorem test_addRdHs : regPc (exec (.addRdHs 1#3 7#3) (atPc 0x1002#32 (put 1 0x10#32 (user 0#4)))) 1 =
    some (0x1016#32, 0x1004#32) := by decide
theorem test_addHdRs : regFlags (exec (.addHdRs 0#3 1#3) (put 8 0xFFFFFFFF#32 (put 1 2#32 (user 15#4)))) 8 =
    some (1#32, 15#4) := by decide
theorem test_addHdRs_pc : statusPc (exec (.addHdRs 7#3 5#3) (put 5 0x101#32 (user 0#4))) = some (0x30#32, 0x1104#32) := by decide
theorem test_addHdHs : regPc (exec (.addHdHs 5#3 0#3) (put 13 0x2000#32 (put 8 0xFFFFFFF0#32 (user 0#4)))) 13 =
    some (0x1FF0#32, 0x1002#32) := by decide
theorem test_cmpRdHs : regFlags (exec (.cmpRdHs 4#3 4#3) (put 4 5#32 (put 12 5#32 (user 0#4)))) 4 = some (5#32, 6#4) := by decide
theorem test_cmpHdRs : regFlags (exec (.cmpHdRs 7#3 1#3) (put 1 0x1004#32 (user 0#4))) 1 = some (0x1004#32, 6#4) := by decide
theorem test_movRdHs : regPc (exec (.movRdHs 1#3 7#3) (atPc 0x1002#32 (user 0#4))) 1 = some (0x1006#32, 0x1004#32) := by decide
theorem test_movHdRs : regFlags (exec (.movHdRs 3#3 1#3) (user 10#4)) 11 = some (0#32, 10#4) := by decide
theorem test_movHdHs_pc : statusPc (exec (.movHdHs 7#3 6#3) (put 14 0x2001#32 (user 10#4))) =
    some (0xA0000030#32, 0x2000#32) := by decide
theorem test_bxHs : statusPc (exec (.bxHs 3#3) (put 11 0x3000#32 (user 5#4))) = some (0x50000010#32, 0x3000#32) := by decide
theorem test_bxRs : statusPc (exec (.bxRs 1#3) (put 1 0x3003#32 (user 5#4))) = some (0x50000030#32, 0x3002#32) := by decide
theorem test_bxRs_refused : refusal (exec (.bxRs 1#3) (put 1 0x3002#32 (user 5#4))) = some (.bxMisaligned 0x3002#32) := by decide

theorem test_ldrPc : regPc (exec (.ldrPc 3#3 211#8) (atPc 0x1002#32 (word 0x1350#32 0xCAFEBABE#32 (user 0#4)))) 3 =
    some (0xCAFEBABE#32, 0x1004#32) := by decide
theorem test_strReg : byteAt (exec (.strReg 3#3 2#3 6#3) (put 3 0x11223344#32 (put 2 0x2000#32 (put 6 8#32 (user 0#4))))) 0x2008#32 =
    some 0x44#8 := by decide
theorem test_strReg_big : byteAt (exec (.strReg 3#3 2#3 6#3) (big (put 3 0x11223344#32 (put 2 0x2000#32 (put 6 8#32 (user 0#4))))))
    0x2008#32 = some 0x11#8 := by decide
theorem test_strbReg : byteAt (exec (.strbReg 3#3 2#3 6#3) (put 3 0x11223344#32 (put 2 0x2000#32 (put 6 3#32 (user 0#4))))) 0x2003#32 =
    some 0x44#8 := by decide
theorem test_ldrReg : regPc (exec (.ldrReg 3#3 2#3 6#3) (put 2 0x2000#32 (put 6 4#32 (word 0x2004#32 0x89ABCDEF#32 (user 0#4))))) 3 =
    some (0x89ABCDEF#32, 0x1002#32) := by decide
theorem test_ldrbReg : regPc (exec (.ldrbReg 2#3 0#3 7#3) (put 0 0x2000#32 (put 7 1#32 (word 0x2000#32 0x89ABCDEF#32 (user 0#4))))) 2 =
    some (0xCD#32, 0x1002#32) := by decide
theorem test_ldrbReg_big : regPc (exec (.ldrbReg 2#3 0#3 7#3) (put 0 0x2000#32 (put 7 1#32 (word 0x2000#32 0x89ABCDEF#32 (big (user 0#4))))))
    2 = some (0xAB#32, 0x1002#32) := by decide
theorem test_strhReg : halfAt (exec (.strhReg 4#3 3#3 0#3) (put 4 0x1234ABCD#32 (put 3 0x2000#32 (put 0 2#32 (user 0#4))))) 0x2002#32 =
    some 0xABCD#16 := by decide
theorem test_ldrhReg : regPc (exec (.ldrhReg 4#3 3#3 0#3) (put 3 0x2000#32 (put 0 2#32 (word 0x2000#32 0x89ABCDEF#32 (user 0#4))))) 4 =
    some (0x89AB#32, 0x1002#32) := by decide
theorem test_ldsbReg : regPc (exec (.ldsbReg 2#3 7#3 1#3) (put 7 0x2000#32 (word 0x2000#32 0x80#32 (user 0#4)))) 2 =
    some (0xFFFFFF80#32, 0x1002#32) := by decide
theorem test_ldshReg : regPc (exec (.ldshReg 3#3 4#3 2#3) (put 4 0x2000#32 (put 2 2#32 (word 0x2000#32 0x80000000#32 (user 0#4))))) 3 =
    some (0xFFFF8000#32, 0x1002#32) := by decide
theorem test_strImm : wordPc (exec (.strImm 1#3 0#3 31#5) (put 1 0xDEADBEEF#32 (put 0 0x2000#32 (user 0#4)))) 0x207C#32 =
    some (some 0xDEADBEEF#32, 0x1002#32) := by decide
theorem test_ldrImm : regPc (exec (.ldrImm 2#3 5#3 29#5) (put 5 0x2000#32 (word 0x2074#32 0x1020304#32 (user 0#4)))) 2 =
    some (0x1020304#32, 0x1002#32) := by decide
theorem test_ldrImm_abort : regPc (exec (.ldrImm 2#3 5#3 29#5)
    (abortData 0x2074#32 0x2077#32 (put 5 0x2000#32 (word 0x2074#32 0x1020304#32 (user 0#4))))) 14 = some (0x1008#32, 0x10#32) := by decide
theorem test_strbImm : byteAt (exec (.strbImm 1#3 0#3 13#5) (put 1 0x1FF#32 (put 0 0x2000#32 (user 0#4)))) 0x200D#32 =
    some 0xFF#8 := by decide
theorem test_ldrbImm : regPc (exec (.ldrbImm 1#3 0#3 31#5) (put 0 0x2000#32 (word 0x201C#32 0xFE000000#32 (user 0#4)))) 1 =
    some (0xFE#32, 0x1002#32) := by decide
theorem test_strhImm : halfAt (exec (.strhImm 6#3 1#3 28#5) (put 6 0xAAAA5555#32 (put 1 0x2000#32 (user 0#4)))) 0x2038#32 =
    some 0x5555#16 := by decide
theorem test_ldrhImm : regPc (exec (.ldrhImm 4#3 7#3 31#5) (put 7 0x2000#32 (word 0x203C#32 0x80010000#32 (user 0#4)))) 4 =
    some (0x8001#32, 0x1002#32) := by decide
theorem test_strSp : wordPc (exec (.strSp 4#3 123#8) (put 4 0x600DF00D#32 (put 13 0x3000#32 (user 0#4)))) 0x31EC#32 =
    some (some 0x600DF00D#32, 0x1002#32) := by decide
theorem test_ldrSp : regPc (exec (.ldrSp 4#3 255#8) (put 13 0x3000#32 (word 0x33FC#32 0x55AA55AA#32 (user 0#4)))) 4 =
    some (0x55AA55AA#32, 0x1002#32) := by decide
theorem test_ldrSp_refused : refusal (exec (.ldrSp 4#3 0#8) (put 13 0x3002#32 (user 0#4))) = some (.misaligned 0x3002#32) := by decide

theorem test_addPc : regPc (exec (.addPc 2#3 143#8) (atPc 0x1002#32 (user 15#4))) 2 = some (0x1240#32, 0x1004#32) := by decide
theorem test_addSp : regPc (exec (.addSp 6#3 255#8) (put 13 0xFFFFFFF0#32 (user 0#4))) 6 = some (0x3EC#32, 0x1002#32) := by decide
theorem test_addSpPos : regFlags (exec (.addSpPos 67#7) (put 13 0x3000#32 (user 15#4))) 13 = some (0x310C#32, 15#4) := by decide
theorem test_addSpNeg : regFlags (exec (.addSpNeg 127#7) (put 13 0x100#32 (user 0#4))) 13 = some (0xFFFFFF04#32, 0#4) := by decide

theorem test_push : wordPc (exec (.push 0x80#8) (put 7 0x77#32 (put 13 0x3000#32 (user 0#4)))) 0x2FFC#32 =
    some (some 0x77#32, 0x1002#32) := by decide
theorem test_pushLr : wordPc (exec (.pushLr 0x1F#8) (put 1 0xA1#32 (put 14 0x1235#32 (put 13 0x3000#32 (user 0#4))))) 0x2FFC#32 =
    some (some 0x1235#32, 0x1002#32) := by decide
theorem test_pushLr_order : wordPc (exec (.pushLr 0x1F#8) (put 1 0xA1#32 (put 14 0x1235#32 (put 13 0x3000#32 (user 0#4))))) 0x2FEC#32 =
    some (some 0xA1#32, 0x1002#32) := by decide
theorem test_pop : regPc (exec (.pop 1#8) (put 13 0x2FFC#32 (word 0x2FFC#32 0xFEEDFACE#32 (user 0#4)))) 0 =
    some (0xFEEDFACE#32, 0x1002#32) := by decide
theorem test_popPc : regPc (exec (.popPc 0x44#8)
    (put 13 0x2FF4#32 (word 0x2FF4#32 0x22#32 (word 0x2FF8#32 0x66#32 (word 0x2FFC#32 0x1235#32 (user 0#4)))))) 6 =
    some (0x66#32, 0x1234#32) := by decide
theorem test_popPc_abort : regPc (exec (.popPc 0x44#8) (abortData 0x2FF8#32 0x2FFB#32
    (put 13 0x2FF4#32 (word 0x2FF4#32 0x22#32 (word 0x2FF8#32 0x66#32 (word 0x2FFC#32 0x1235#32 (user 0#4))))))) 2 =
    some (0x22#32, 0x10#32) := by decide
theorem test_stmia : wordPc (exec (.stmia 0#3 0xF8#8) (put 0 0x2000#32 (put 4 4#32 (user 0#4)))) 0x2004#32 =
    some (some 4#32, 0x1002#32) := by decide
theorem test_stmia_abort : wordPc (exec (.stmia 0#3 0x38#8)
    (abortData 0x2004#32 0x2007#32 (put 0 0x2000#32 (put 5 5#32 (user 0#4))))) 0x2008#32 = some (some 5#32, 0x10#32) := by decide
theorem test_ldmia : regPc (exec (.ldmia 1#3 5#8)
    (put 1 0x2000#32 (word 0x2000#32 0xAAAA0000#32 (word 0x2004#32 0xBBBB0002#32 (user 0#4))))) 1 =
    some (0x2008#32, 0x1002#32) := by decide
theorem test_ldmia_refused : refusal (exec (.ldmia 1#3 6#8) (put 1 0x2000#32 (user 0#4))) = some .baseInList := by decide

theorem test_beq : statusPc (exec (.beq 6#8) (user 4#4)) = some (0x40000030#32, 0x1010#32) := by decide
theorem test_bne : statusPc (exec (.bne 0x80#8) (user 0#4)) = some (0x30#32, 0xF04#32) := by decide
theorem test_bcs : statusPc (exec (.bcs 6#8) (user 2#4)) = some (0x20000030#32, 0x1010#32) := by decide
theorem test_bcc : statusPc (exec (.bcc 6#8) (user 2#4)) = some (0x20000030#32, 0x1002#32) := by decide
theorem test_bmi : statusPc (exec (.bmi 6#8) (user 8#4)) = some (0x80000030#32, 0x1010#32) := by decide
theorem test_bpl : statusPc (exec (.bpl 6#8) (user 8#4)) = some (0x80000030#32, 0x1002#32) := by decide
theorem test_bvs : statusPc (exec (.bvs 6#8) (user 1#4)) = some (0x10000030#32, 0x1010#32) := by decide
theorem test_bvc : statusPc (exec (.bvc 6#8) (user 1#4)) = some (0x10000030#32, 0x1002#32) := by decide
theorem test_bhi : statusPc (exec (.bhi 6#8) (user 2#4)) = some (0x20000030#32, 0x1010#32) := by decide
theorem test_bhi_equal : statusPc (exec (.bhi 6#8) (user 6#4)) = some (0x60000030#32, 0x1002#32) := by decide
theorem test_bls : statusPc (exec (.bls 6#8) (user 0#4)) = some (0x30#32, 0x1010#32) := by decide
theorem test_bge : statusPc (exec (.bge 6#8) (user 9#4)) = some (0x90000030#32, 0x1010#32) := by decide
theorem test_blt : statusPc (exec (.blt 6#8) (user 1#4)) = some (0x10000030#32, 0x1010#32) := by decide
theorem test_bgt : statusPc (exec (.bgt 6#8) (user 4#4)) = some (0x40000030#32, 0x1002#32) := by decide
theorem test_ble : statusPc (exec (.ble 6#8) (user 4#4)) = some (0x40000030#32, 0x1010#32) := by decide
theorem test_swi : statusPc (exec (.swi 18#8) (user 6#4)) = some (0x60000093#32, 8#32) := by decide
theorem test_swi_link : regPc (exec (.swi 18#8) (user 6#4)) 14 = some (0x1002#32, 8#32) := by decide
theorem test_b : statusPc (exec (.b 0x400#11) (atPc 0#32 (user 0#4))) = some (0x30#32, 0xFFFFF804#32) := by decide
theorem test_blHigh : regPc (exec (.blHigh 0x400#11) (user 0#4)) 14 = some (0xFFC01004#32, 0x1002#32) := by decide
theorem test_blLow : regPc (exec (.blLow 0x7FF#11) (atPc 0x1002#32 (put 14 0x400004#32 (user 0#4)))) 14 =
    some (0x1005#32, 0x401002#32) := by decide

/-! ### Section 3 of 95_test_vectors.md: the ARM subset and the exceptions -/

theorem test_armBx : statusPc (exec (.armBx 14#4 0#4) (put 0 0x8001#32 (arm .usr 6#4))) = some (0x60000030#32, 0x8000#32) := by decide
theorem test_armMovsPcLr : statusPc (exec (.armMovsPcLr 14#4)
    ({ put 14 0x8004#32 (arm .svc 0#4) with spsrSvc := 0x60000030#32 })) = some (0x60000030#32, 0x8004#32) := by decide
theorem test_armMovsPcLr_refused : refusal (exec (.armMovsPcLr 14#4) (arm .usr 0#4)) = some .noSpsr := by decide
theorem test_armSubsPcLr4 : statusPc (exec (.armSubsPcLr4 14#4)
    ({ put 14 0x2008#32 (arm .irq 0#4) with spsrIrq := 0x80000013#32 })) = some (0x80000013#32, 0x2004#32) := by decide
theorem test_armSubsPcLr8 : statusPc (exec (.armSubsPcLr8 14#4)
    ({ put 14 0x1008#32 (arm .abt 0#4) with spsrAbt := 0x00000030#32 })) = some (0x00000030#32, 0x1000#32) := by decide
theorem test_armMovPcLr : statusPc (exec (.armMovPcLr 14#4) (put 14 0x3003#32 (arm .svc 0#4))) =
    some (0x93#32, 0x3000#32) := by decide
theorem test_armB : statusPc (exec (.armB 14#4 0xFFFFFE#24) (arm .usr 0#4)) = some (0x10#32, 0x2000#32) := by decide
theorem test_armB_fails : statusPc (exec (.armB 0#4 2#24) (arm .usr 0#4)) = some (0x10#32, 0x2004#32) := by decide
theorem test_armBl : regPc (exec (.armBl 14#4 2#24) (arm .usr 0#4)) 14 = some (0x2004#32, 0x2010#32) := by decide
theorem test_armSwi : regPc (exec (.armSwi 14#4 18#24) (arm .usr 8#4)) 14 = some (0x2004#32, 8#32) := by decide
theorem test_unalloc : statusPc (exec (.unallocB1 0#8) ({ user 0#4 with unallocTraps := true })) =
    some (0x9B#32, 4#32) := by decide
theorem test_irq : regPc (step ({ user 2#4 with lines := { Lines.quiet with irq := true } })) 14 =
    some (0x1004#32, 0x18#32) := by decide
theorem test_fiq_over_irq : statusPc (step ({ user 0#4 with lines := { Lines.quiet with fiq := true, irq := true } })) =
    some (0xD1#32, 0x1C#32) := by decide

/-- The first instruction after reset, placed with `withFetchWord`. -/
theorem test_withFetchWord : statusPc (step (State.reset.withFetchWord 16 0x2080)) = some (0xF3#32, 2#32) := by decide
theorem test_withFetchWord_arm : statusPc (step (State.reset.withFetchWord 32 0xEAFFFFFE)) = some (0xD3#32, 0#32) := by decide

/-! ### The memory map, other masters, a reset in a run, the end of a run, nEXEC -/

/-- R75, D22: an access outside the map takes the data abort. -/
theorem test_outside : regPc (exec (.ldrImm 1#3 0#3 0#5) (put 0 0x3000#32 (mapped (user 0#4)))) 14 = some (0x1008#32, 0x10#32) := by
  decide
/-- R75, D22: a store in ROM leaves it. -/
theorem test_rom : byteAt (exec (.strbImm 0#3 0#3 0#5) (put 0 0x4000#32 (mapped (word 0x4000#32 0xAB#32 (user 0#4))))) 0x4000#32 =
    some 0xAB#8 := by decide
/-- R75, D22: a load from a device goes on, past the instruction; its other registers are kept. -/
theorem test_device : regPc (exec (.ldrImm 1#3 0#3 0#5) (put 0 0x5FFC#32 (mapped (user 0#4)))) 0 =
    some (0x5FFC#32, 0x1002#32) := by decide
/-- R80, R334: the load of a byte another master writes between the fetch and the load. -/
theorem test_masters : regPc (step ({ (put 0 0x2000#32 (user 0#4)).withFetchWord 16 0x7801 with
    masters := [⟨[⟨0x2000#32, 0x5A#8⟩], [⟨0x2000#32, 0xA5#8⟩]⟩] })) 1 = some (0x5A#32, 0x1002#32) := by decide
/-- R80, R334: what another master writes after it. -/
theorem test_masters_after : byteAt (step ({ (put 0 0x2000#32 (user 0#4)).withFetchWord 16 0x7801 with
    masters := [⟨[⟨0x2000#32, 0x5A#8⟩], [⟨0x2000#32, 0xA5#8⟩]⟩] })) 0x2000#32 = some 0xA5#8 := by decide
/-- R361: a reset that abandons `MOV R0, #128` keeps R1. -/
theorem test_reset_abandons : regPc (step ({ (put 1 7#32 (user 0#4)).withFetchWord 16 0x2080 with
    lines := { Lines.quiet with reset := true } })) 1 = some (7#32, 0#32) := by decide
/-- R361: while nRESET stays LOW nothing is executed, so R0 is kept too. -/
theorem test_reset_held : regPc (step ({ (put 0 7#32 (user 0#4)).withFetchWord 16 0x2080 with
    lines := { Lines.quiet with reset := true }, resetting := true })) 0 = some (7#32, 0#32) := by decide
/-- R367: 0xE7FE ends the run where nothing more comes from outside. -/
theorem test_run_ends : ((user 0#4).withFetchWord 16 0xE7FE).run 5 = .ended ((user 0#4).withFetchWord 16 0xE7FE) := by decide
/-- R367: with an enabled IRQ asserted two boundaries later the loop is the idle loop. -/
theorem test_idle_loop : ({ (user 0#4).withFetchWord 16 0xE7FE with
    upcoming := [Lines.quiet, { Lines.quiet with irq := true }] } : State).idle = true ∧
    ({ (user 0#4).withFetchWord 16 0xE7FE with upcoming := [Lines.quiet, { Lines.quiet with irq := true }] } : State).ended = false := by
  decide
/-- R282: nEXEC shows the failed condition of BEQ with Z clear, and not that of B always. -/
theorem test_pinNEXEC : (arm .usr 0#4).pinNEXEC (.armB 0#4 2#24) = true ∧ (arm .usr 0#4).pinNEXEC (.armB 14#4 2#24) = false := by
  decide

/-! ### Witnesses: the hypotheses of each obligation that has some, met -/

theorem witness_DecodeOfEncode :
    (Instr.armSwi 14#4 0xFFFFFF#24).wf = true ∧ (Instr.armBx 0#4 15#4).wf = true ∧ (Instr.unallocE8 0x7FF#11).wf = true := by decide

theorem witness_EncodeOfDecode : decodeTableWord 32 0xEAFFFFFE = some (.armB 14#4 0xFFFFFE#24) := by decide

theorem witness_ResetTakesEffect :
    ({ user 15#4 with cpsr := 0#32, lines := { Lines.quiet with reset := true } } : State).lines.reset = true := by decide

/-- nRESET still LOW; and a reset that abandons an FIQ entry. -/
theorem witness_ResetTakesEffect_clauses :
    ({ user 15#4 with resetting := true, lines := { Lines.quiet with reset := true } } : State).resetting = true ∧
    ∃ s u : State, s.lines.reset = true ∧ s.resetting = false ∧ s.midBus.work s.workEvent = .next u :=
  ⟨by decide, { user 15#4 with lines := { Lines.quiet with reset := true, fiq := true } }, _, by decide, by decide, rfl⟩

/-- A state with a word of text at the PC: `MOV R0, #128`, then a halfword of zeros. -/
def running : State := (user 0#4).withFetchWord 16 0x2080

theorem running_wf : Memory.wf running.mem := by decide

theorem witness_StepKeepsInvariant : running.Inv ∧ ∃ t, step running = .next t := by
  refine ⟨⟨running_wf, by decide, ?_, by decide, by decide⟩, exists_next (by decide)⟩
  intro n hn
  cases hn

theorem running_undisturbed : running.Undisturbed :=
  ⟨by decide, by decide, .inl (by decide), .inl (by decide), by decide, by decide⟩

theorem witness_StepRunsDecoded : running.Undisturbed ∧ running.thumb = true ∧
    (∀ k (h : k < [0x80#8, 0x20#8].length), running.readByte (running.pc + BitVec.ofNat 32 k) = some [0x80#8, 0x20#8][k]) ∧
    (∀ k, k < 2 → (running.pc + BitVec.ofNat 32 k).toNat ∉ running.stored) ∧
    decodeBytes true running.bigend [0x80#8, 0x20#8] = .ok (.movImm8 0#3 128#8) := by
  refine ⟨running_undisturbed, by decide, by decide, by decide, by rfl⟩

/-- The same in ARM state: `B` to itself. -/
def runningArm : State := (arm .usr 0#4).withFetchWord 32 0xEAFFFFFE

theorem witness_StepRunsDecoded_arm : runningArm.Undisturbed ∧ runningArm.thumb = false ∧
    (∀ k (h : k < [0xFE#8, 0xFF#8, 0xFF#8, 0xEA#8].length),
      runningArm.readByte (runningArm.pc + BitVec.ofNat 32 k) = some [0xFE#8, 0xFF#8, 0xFF#8, 0xEA#8][k]) ∧
    (∀ k, k < 4 → (runningArm.pc + BitVec.ofNat 32 k).toNat ∉ runningArm.stored) ∧
    decodeBytes false runningArm.bigend [0xFE#8, 0xFF#8, 0xFF#8, 0xEA#8] = .ok (.armB 14#4 0xFFFFFE#24) := by
  refine ⟨⟨by decide, by decide, .inl (by decide), .inl (by decide), by decide, by decide⟩, by decide, by decide, by decide, by rfl⟩

/-- The text of `running` with its second byte stored by the program. -/
def runningStored : State := running.writeByte 0x1001#32 0x20#8

theorem witness_StoredTextRefused : runningStored.Undisturbed ∧ runningStored.thumb = true ∧
    (∀ j, j < 2 → (runningStored.readByte (runningStored.pc + BitVec.ofNat 32 j)).isSome) ∧
    (runningStored.pc + BitVec.ofNat 32 1).toNat ∈ runningStored.stored := by
  refine ⟨⟨by decide, by decide, .inl (by decide), .inl (by decide), by decide, by decide⟩, by decide, by decide, by decide⟩

/-- The PC in the device's window. -/
theorem witness_StoredTextRefused_device : (atPc 0x5000#32 (mapped (user 0#4))).lines.reset = false ∧
    (atPc 0x5000#32 (mapped (user 0#4))).mode ≠ none ∧ (atPc 0x5000#32 (mapped (user 0#4))).lines.fiq = false ∧
    (atPc 0x5000#32 (mapped (user 0#4))).lines.irq = false ∧
    (atPc 0x5000#32 (mapped (user 0#4))).aborts .fetch .half 0x5000#32 = false ∧
    (atPc 0x5000#32 (mapped (user 0#4))).onDevice .half 0x5000#32 = true := by decide

theorem witness_IllegalModeStuck :
    ({ user 0#4 with cpsr := 0x16#32 } : State).mode = none ∧ ({ user 0#4 with cpsr := 0x16#32 } : State).lines.reset = false := by
  decide

theorem witness_RegisterBanks : Mode.sys ≠ .fiq := by decide

theorem witness_BankedWrite : (14 : RegNum) ≠ 15 ∧ (0 : RegNum) ≠ 15 := by decide

theorem witness_WordByteOrder : (3 : Nat) < 4 ∧ (word 0xFFFFFFFE#32 0x11223344#32 (big (user 0#4))).readWord 0xFFFFFFFE#32 =
    some 0x11223344#32 := by decide

theorem witness_SoftwareInterrupt : (arm .svc 4#4).condPassed 0#4 = true := by decide

theorem witness_UnallocatedHalfwords : Unallocated (.unallocE8 0x7FF#11) ∧
    ({ user 0#4 with unallocTraps := true } : State).unallocTraps = true ∧ (user 0#4).unallocTraps = false :=
  ⟨.e8 _, by decide, by decide⟩

/-- A state with some lines asserted and the fetch aborted. -/
def disturbed (s : State) (fiq irq : Bool) : State :=
  { s with lines := { reset := false, fiq := fiq, irq := irq, aborts := [⟨s.pc, s.pc, true, false, false, true, true⟩] } }

theorem witness_BoundaryExceptions_fiq : (disturbed (user 0#4) true true).lines.reset = false ∧
    (disturbed (user 0#4) true true).mode ≠ none ∧ (disturbed (user 0#4) true true).lines.fiq = true ∧
    (disturbed (user 0#4) true true).fiqMasked = false := by decide

theorem witness_BoundaryExceptions_irq : (disturbed (user 0#4) false true).lines.reset = false ∧
    (disturbed (user 0#4) false true).mode ≠ none ∧ (disturbed (user 0#4) false true).lines.fiq = false ∧
    (disturbed (user 0#4) false true).lines.irq = true ∧ (disturbed (user 0#4) false true).irqMasked = false := by decide

theorem witness_BoundaryExceptions_prefetch : (disturbed (arm .irq 0#4) false true).lines.reset = false ∧
    (disturbed (arm .irq 0#4) false true).mode ≠ none ∧ (disturbed (arm .irq 0#4) false true).lines.fiq = false ∧
    (disturbed (arm .irq 0#4) false true).irqMasked = true ∧
    (disturbed (arm .irq 0#4) false true).aborts .fetch .word (disturbed (arm .irq 0#4) false true).pc = true := by decide

/-- R0 at 0x2000, a word there, data accesses to the word aborted. -/
def aborting : State := abortData 0x2000#32 0x2003#32 (put 0 0x2000#32 (word 0x2000#32 0x1020304#32 (user 0#4)))

/-- SP at 0x3000, two words from there on, data accesses to the second aborted. -/
def abortingStack : State :=
  abortData 0x3004#32 0x3007#32 (put 13 0x3000#32 (word 0x3000#32 0xA0#32 (word 0x3004#32 0x1235#32 (user 0#4))))

theorem witness_ExceptionPriorities : aborting.mode ≠ none ∧ aborting.fiqMasked = false ∧
    aborting.DataAborts (.ldrImm 1#3 0#3 0#5) ∧ aborting.DataAborts (.strbImm 1#3 0#3 3#5) :=
  ⟨by decide, by decide, .load (.ldrImm 1#3 0#3 0#5) (by decide) (by decide), .store (.strbImm 1#3 0#3 3#5) (by decide) (by decide)⟩

theorem witness_ExceptionPriorities_block : abortingStack.mode ≠ none ∧ abortingStack.fiqMasked = false ∧
    (put 13 0x3008#32 abortingStack).DataAborts (.push 3#8) ∧ abortingStack.DataAborts (.popPc 1#8) :=
  ⟨by decide, by decide, .blockStore (k := 1) (.push 3#8) (by decide) (by decide) (by decide),
    .blockLoad (k := 1) (.popPc 1#8) (by decide) (by decide) (by decide) (by decide)⟩

theorem witness_DataAbortThenFiq : aborting.fiqMasked = false ∧ { Lines.quiet with fiq := true }.reset = false ∧
    { Lines.quiet with fiq := true }.fiq = true ∧ { Lines.quiet with irq := true }.fiq = false := by decide

theorem witness_ExceptionReturn : ReturnForm (.armSubsPcLr8 14#4) 14#4 8#32 ∧ (arm .abt 0#4).condPassed 14#4 = true ∧
    (arm .abt 0#4).mode = some .abt ∧ (arm .abt 0#4).spsrOf .abt = some 0#32 ∧ Mode.ofBits (psrM 0#32) = none ∧
    (arm .abt 0#4).lines.reset = false :=
  ⟨.subs8 _, by decide⟩

theorem witness_ExceptionReturn_refused : ReturnForm (.armMovsPcLr 14#4) 14#4 0#32 ∧ (arm .sys 0#4).condPassed 14#4 = true ∧
    (arm .sys 0#4).mode = some .sys :=
  ⟨.movs _, by decide⟩

theorem witness_ReturnResumes : (user 0#4).PcAligned ∧ (user 0#4).thumb = true ∧ (arm .usr 0#4).PcAligned ∧
    (arm .usr 0#4).thumb = false ∧ (arm .usr 0#4).condPassed 14#4 = true ∧ Unallocated (.unallocB1 0#8) :=
  ⟨⟨by decide, by decide⟩, by decide, ⟨by decide, by decide⟩, by decide, by decide, .b1 _⟩

theorem witness_ReturnResumes_fiq : (disturbed (user 0#4) true true).PcAligned ∧ (disturbed (user 0#4) true true).lines.fiq = true ∧
    (disturbed (user 0#4) true true).fiqMasked = false :=
  ⟨⟨by decide, by decide⟩, by decide, by decide⟩

theorem witness_ReturnResumes_irq : (disturbed (user 0#4) false true).PcAligned ∧
    (disturbed (user 0#4) false true).lines.reset = false ∧ (disturbed (user 0#4) false true).mode ≠ none ∧
    (disturbed (user 0#4) false true).lines.fiq = false ∧ (disturbed (user 0#4) false true).lines.irq = true ∧
    (disturbed (user 0#4) false true).irqMasked = false :=
  ⟨⟨by decide, by decide⟩, by decide, by decide, by decide, by decide, by decide⟩

theorem witness_ReturnResumes_block : abortingStack.PcAligned ∧
    (∃ start final, (put 13 0x3008#32 abortingStack).BlockStoreForm (.push 3#8) (regList 3#8) start spReg final ∧
      aligned .word start = true ∧ 1 < (regList 3#8).length ∧
      (put 13 0x3008#32 abortingStack).aborts .write .word (wordAt start 1) = true) ∧
    ∃ start final, abortingStack.BlockLoadForm (.popPc 1#8) (regList 1#8 ++ [pcReg]) start spReg final ∧
      aligned .word start = true ∧ 1 < (regList 1#8 ++ [pcReg]).length ∧
      (∀ j, j < 1 → abortingStack.aborts .read .word (wordAt start j) = false ∧
        (abortingStack.onDevice .word (wordAt start j) = true ∨ (abortingStack.readWord (wordAt start j)).isSome)) ∧
      abortingStack.aborts .read .word (wordAt start 1) = true :=
  ⟨⟨by decide, by decide⟩, ⟨_, _, .push 3#8, by decide, by decide, by decide⟩,
    ⟨_, _, .popPc 1#8, by decide, by decide, by decide, by decide⟩⟩

theorem witness_ReturnResumes_prefetch : (disturbed (user 0#4) false false).PcAligned ∧
    (disturbed (user 0#4) false false).lines.irq = false ∧ (disturbed (user 0#4) false false).aborts .fetch
      (disturbed (user 0#4) false false).fetchSize (disturbed (user 0#4) false false).pc = true :=
  ⟨⟨by decide, by decide⟩, by decide, by decide⟩

theorem witness_ReturnResumes_abort : aborting.PcAligned ∧ (∃ a, aborting.StoreForm (.strbImm 1#3 0#3 3#5) 1#3 .byte a ∧
    aligned .byte a = true ∧ aborting.aborts .write .byte a = true) :=
  ⟨⟨by decide, by decide⟩, ⟨_, .strbImm 1#3 0#3 3#5, by decide, by decide⟩⟩

/-- A step that changes the mode: an FIQ. -/
theorem witness_ModeChanges : ∃ t, step (disturbed (user 0#4) true true) = .next t ∧
    t.modeBits ≠ (disturbed (user 0#4) true true).modeBits :=
  ⟨_, rfl, by decide⟩

theorem witness_UserControlBits : running.mode = some .usr ∧ ∃ t, step running = .next t :=
  ⟨by decide, exists_next (by decide)⟩

theorem witness_ThumbKeepsControl : (Instr.bxRs 0#3).isThumb = true ∧ ∃ t, exec (.bxRs 0#3) (user 0#4) = .next t :=
  ⟨by decide, exists_next (by decide)⟩

/-- Amounts at the edges of the clauses of `ShiftRegister`: 0, 32, 33 and 255. -/
theorem witness_ShiftRegister : 0 = 0x100 % 256 ∧ 32 = ((put 1 0x20#32 (user 0#4)).readReg (loReg 1#3)).toNat % 256 ∧
    33 = ((put 1 0x121#32 (user 0#4)).readReg (loReg 1#3)).toNat % 256 ∧
    255 = ((put 1 0xFFFFFFFF#32 (user 0#4)).readReg (loReg 1#3)).toNat % 256 := by decide

theorem witness_Additions :
    (∃ rs rn, Instr.addReg 0#3 1#3 2#3 = .addReg 0#3 rs rn ∧ 0xFFFFFFFF#32 = (put 1 0xFFFFFFFF#32 (user 0#4)).readReg (loReg rs) ∧
      0#32 = (put 1 0xFFFFFFFF#32 (user 0#4)).readReg (loReg rn)) ∧
    (∃ rs imm, Instr.addImm3 0#3 1#3 7#3 = .addImm3 0#3 rs imm ∧
      0xFFFFFFFF#32 = (put 1 0xFFFFFFFF#32 (user 0#4)).readReg (loReg rs) ∧ 7#32 = BitVec.ofNat 32 imm.toNat) ∧
    (∃ imm, Instr.addImm8 1#3 255#8 = .addImm8 1#3 imm ∧
      0xFFFFFFFF#32 = (put 1 0xFFFFFFFF#32 (user 0#4)).readReg (loReg 1#3) ∧ 255#32 = BitVec.ofNat 32 imm.toNat) :=
  ⟨⟨1#3, 2#3, rfl, by decide, by decide⟩, ⟨1#3, 7#3, rfl, by decide, by decide⟩, ⟨255#8, rfl, by decide, by decide⟩⟩

theorem witness_Subtractions :
    (∃ rs, Instr.negReg 0#3 1#3 = .negReg 0#3 rs ∧ 0#32 = 0#32 ∧
      0x80000000#32 = (put 1 0x80000000#32 (user 0#4)).readReg (loReg rs)) ∧
    (∃ imm, Instr.subImm8 1#3 255#8 = .subImm8 1#3 imm ∧
      0x80000000#32 = (put 1 0x80000000#32 (user 0#4)).readReg (loReg 1#3) ∧ 255#32 = BitVec.ofNat 32 imm.toNat) :=
  ⟨⟨1#3, rfl, rfl, by decide⟩, ⟨255#8, rfl, by decide, by decide⟩⟩

theorem witness_CarryArithmetic : 0xFFFFFFFF#32 = (put 0 0xFFFFFFFF#32 (user 2#4)).readReg (loReg 0#3) ∧
    0#32 = (put 0 0xFFFFFFFF#32 (user 2#4)).readReg (loReg 1#3) ∧
    1 = (if (put 0 0xFFFFFFFF#32 (user 2#4)).flagC then 1 else 0) ∧ 0 = (if (user 0#4).flagC then 1 else 0) := by decide

/-- CMP of R15 with R15, and of R8 with R15. -/
theorem witness_Comparisons : (user 0#4).thumb = true ∧
    0x1004#32 = (if 7#3 = 7#3 then (user 0#4).pc + 4#32 else (user 0#4).readReg (hiReg 7#3)) ∧
    0#32 = (if 0#3 = 7#3 then (user 0#4).pc + 4#32 else (user 0#4).readReg (hiReg 0#3)) := by decide

theorem witness_ComparisonReadings : 0x80000000#32 = (put 0 0x80000000#32 (user 0#4)).readReg (loReg 0#3) ∧
    0#32 = (put 0 0x80000000#32 (user 0#4)).readReg (loReg 1#3) := by decide

theorem witness_LogicAndMoves : 0xFFFFFFFF#32 = (put 0 0xFFFFFFFF#32 (user 0#4)).readReg (loReg 0#3) ∧
    0#32 = (put 0 0xFFFFFFFF#32 (user 0#4)).readReg (loReg 1#3) := by decide

theorem witness_Multiplication : 0#32 = BitVec.ofNat 32 (((put 0 0x10000#32 (put 7 0x10000#32 (user 1#4))).readReg (loReg 7#3)).toNat *
    ((put 0 0x10000#32 (put 7 0x10000#32 (user 1#4))).readReg (loReg 0#3)).toNat) := by decide

/-- Both clauses: R15 as the destination and as the source, and R8 as the destination. -/
theorem witness_HiAddAndMov : (user 0#4).thumb = true ∧ hiReg 7#3 = 15 ∧ hiReg 0#3 ≠ 15 ∧
    0x1004#32 = (if hiReg 7#3 = 15 then (user 0#4).pc + 4#32 else (user 0#4).readReg (hiReg 7#3)) ∧
    0#32 = (if hiReg 0#3 = 15 then (user 0#4).pc + 4#32 else (user 0#4).readReg (hiReg 0#3)) := by decide

/-- The three clauses of BX: an odd address, an address of bits [1:0] = 00, and one of bits [1:0] = 10 (R15 of an instruction that
is not word aligned); the ARM form with R15. -/
theorem witness_BranchExchange :
    (0x3001#32 = (put 1 0x3001#32 (user 0#4)).readReg (loReg 1#3) ∧ BitVec.getLsbD 0x3001#32 0 = true) ∧
    (0x2008#32 = (if 15#4 = 15#4 then (arm .usr 0#4).pc + 8#32 else (arm .usr 0#4).readReg (armReg 15#4)) ∧
      (arm .usr 0#4).condPassed 14#4 = true ∧ BitVec.getLsbD 0x2008#32 0 = false ∧ BitVec.getLsbD 0x2008#32 1 = false) ∧
    ((atPc 0x1002#32 (user 0#4)).thumb = true ∧
      0x1006#32 = (if 7#3 = 7#3 then (atPc 0x1002#32 (user 0#4)).pc + 4#32 else (atPc 0x1002#32 (user 0#4)).readReg (hiReg 7#3)) ∧
      BitVec.getLsbD 0x1006#32 0 = false ∧ BitVec.getLsbD 0x1006#32 1 = true) := by decide

/-- R0 at 0x2000 and a word there. -/
def loading : State := put 0 0x2000#32 (word 0x2000#32 0x89ABCDEF#32 (user 0#4))

theorem witness_WordLoads : ∃ a f, loading.LoadForm (.ldrReg 1#3 0#3 2#3) 1#3 .word a f ∧ a.toNat % 4 = 0 ∧
    loading.aborts .read .word a = false ∧ loading.onDevice .word a = false ∧ loading.readWord a = some 0x89ABCDEF#32 :=
  ⟨_, _, .ldrReg 1#3 0#3 2#3, by decide, by decide, by decide, by decide⟩

theorem witness_WordLoads_forms : (∃ a f, (atPc 0x1FFC#32 loading).LoadForm (.ldrPc 1#3 0#8) 1#3 .word a f ∧
      (atPc 0x1FFC#32 loading).readWord a = some 0x89ABCDEF#32) ∧
    (∃ a f, loading.LoadForm (.ldrImm 1#3 0#3 0#5) 1#3 .word a f ∧ loading.readWord a = some 0x89ABCDEF#32) ∧
    (∃ a f, (put 13 0x1C04#32 loading).LoadForm (.ldrSp 1#3 255#8) 1#3 .word a f ∧
      (put 13 0x1C04#32 loading).readWord a = some 0x89ABCDEF#32) :=
  ⟨⟨_, _, .ldrPc 1#3 0#8, by decide⟩, ⟨_, _, .ldrImm 1#3 0#3 0#5, by decide⟩, ⟨_, _, .ldrSp 1#3 255#8, by decide⟩⟩

theorem witness_ExtendingLoads :
    (0x2000#32 = loading.readReg (loReg 0#3) + loading.readReg (loReg 2#3) ∧ loading.aborts .read .byte 0x2000#32 = false ∧
      loading.onDevice .byte 0x2000#32 = false ∧ loading.onDevice .half 0x2000#32 = false ∧
      loading.readByte 0x2000#32 = some 0xEF#8 ∧ (0x2000#32).toNat % 2 = 0 ∧ loading.aborts .read .half 0x2000#32 = false ∧
      loading.readHalf 0x2000#32 = some 0xCDEF#16) ∧
    (0x2002#32 = loading.readReg (loReg 0#3) + BitVec.ofNat 32 (2 * (1#5).toNat) ∧ (0x2002#32).toNat % 2 = 0 ∧
      loading.aborts .read .half 0x2002#32 = false ∧ loading.onDevice .half 0x2002#32 = false ∧ loading.readHalf 0x2002#32 = some 0x89AB#16) := by decide

theorem witness_ByteLoads : (loading.aborts .read .byte 0x2000#32 = false ∧ loading.onDevice .byte 0x2000#32 = false ∧ loading.readByte 0x2000#32 = some 0xEF#8 ∧
      0x2000#32 = loading.readReg (loReg 0#3) + loading.readReg (loReg 2#3)) ∧
    (loading.aborts .read .byte 0x2003#32 = false ∧ loading.onDevice .byte 0x2003#32 = false ∧ loading.readByte 0x2003#32 = some 0x89#8 ∧
      0x2003#32 = loading.readReg (loReg 0#3) + BitVec.ofNat 32 (3#5).toNat) := by decide

theorem witness_WordStores : ∃ a, loading.StoreForm (.strReg 0#3 0#3 2#3) 0#3 .word a ∧ a.toNat % 4 = 0 ∧
    loading.aborts .write .word a = false ∧ loading.inRam .word a = true :=
  ⟨_, .strReg 0#3 0#3 2#3, by decide, by decide, by decide⟩

theorem witness_NarrowStores : (∃ a, loading.StoreForm (.strbImm 0#3 0#3 31#5) 0#3 .byte a ∧ loading.aborts .write .byte a = false ∧
      loading.inRam .byte a = true) ∧
    ∃ a, loading.StoreForm (.strhImm 0#3 0#3 31#5) 0#3 .half a ∧ a.toNat % 2 = 0 ∧ loading.aborts .write .half a = false ∧
      loading.inRam .half a = true :=
  ⟨⟨_, .strbImm 0#3 0#3 31#5, by decide, by decide⟩, ⟨_, .strhImm 0#3 0#3 31#5, by decide, by decide, by decide⟩⟩

/-- A load outside the map and one from its device; a store outside it, one in its ROM and one to its device. -/
theorem witness_SingleTransferStops_map :
    (∃ a f, (put 0 0x3000#32 (mapped (user 0#4))).LoadForm (.ldrImm 1#3 0#3 0#5) 1#3 .word a f ∧ a.toNat % Size.word.bytes = 0 ∧
      (put 0 0x3000#32 (mapped (user 0#4))).outside .word a = true) ∧
    (∃ a f, (put 0 0x5000#32 (mapped (user 0#4))).LoadForm (.ldrhImm 1#3 0#3 0#5) 1#3 .half a f ∧ a.toNat % Size.half.bytes = 0 ∧
      (put 0 0x5000#32 (mapped (user 0#4))).aborts .read .half a = false ∧
      (put 0 0x5000#32 (mapped (user 0#4))).onDevice .half a = true) ∧
    (∃ a, (put 0 0x3000#32 (mapped (user 0#4))).StoreForm (.strImm 1#3 0#3 0#5) 1#3 .word a ∧ a.toNat % Size.word.bytes = 0 ∧
      (put 0 0x3000#32 (mapped (user 0#4))).outside .word a = true) ∧
    (∃ a, (put 0 0x4000#32 (mapped (user 0#4))).StoreForm (.strImm 1#3 0#3 0#5) 1#3 .word a ∧ a.toNat % Size.word.bytes = 0 ∧
      (put 0 0x4000#32 (mapped (user 0#4))).aborts .write .word a = false ∧
      (put 0 0x4000#32 (mapped (user 0#4))).inRam .word a = false) ∧
    ∃ a, (put 0 0x5000#32 (mapped (user 0#4))).StoreForm (.strbImm 1#3 0#3 0#5) 1#3 .byte a ∧ a.toNat % Size.byte.bytes = 0 ∧
      (put 0 0x5000#32 (mapped (user 0#4))).aborts .write .byte a = false ∧
      (put 0 0x5000#32 (mapped (user 0#4))).inRam .byte a = false :=
  ⟨⟨_, _, .ldrImm 1#3 0#3 0#5, by decide, by decide⟩, ⟨_, _, .ldrhImm 1#3 0#3 0#5, by decide, by decide, by decide⟩,
    ⟨_, .strImm 1#3 0#3 0#5, by decide, by decide⟩, ⟨_, .strImm 1#3 0#3 0#5, by decide, by decide, by decide⟩,
    ⟨_, .strbImm 1#3 0#3 0#5, by decide, by decide, by decide⟩⟩

/-- A load: not aligned; aligned and aborted; aligned, not aborted, its last byte without a value. -/
theorem witness_SingleTransferStops :
    (∃ a f, (put 0 0x2001#32 (user 0#4)).LoadForm (.ldrhImm 1#3 0#3 0#5) 1#3 .half a f ∧ a.toNat % Size.half.bytes ≠ 0) ∧
    (∃ a f, aborting.LoadForm (.ldrImm 1#3 0#3 0#5) 1#3 .word a f ∧ a.toNat % Size.word.bytes = 0 ∧
      aborting.aborts .read .word a = true) ∧
    (∃ a f, ((put 0 0x2000#32 (user 0#4)).writeByte 0x2000#32 0#8).LoadForm (.ldrhImm 1#3 0#3 0#5) 1#3 .half a f ∧
      a.toNat % Size.half.bytes = 0 ∧ ((put 0 0x2000#32 (user 0#4)).writeByte 0x2000#32 0#8).aborts .read .half a = false ∧
      ((put 0 0x2000#32 (user 0#4)).writeByte 0x2000#32 0#8).onDevice .half a = false ∧
      ((put 0 0x2000#32 (user 0#4)).writeByte 0x2000#32 0#8).readByte (a + BitVec.ofNat 32 1) = none) :=
  ⟨⟨_, _, .ldrhImm 1#3 0#3 0#5, by decide⟩, ⟨_, _, .ldrImm 1#3 0#3 0#5, by decide, by decide⟩,
    ⟨_, _, .ldrhImm 1#3 0#3 0#5, by decide, by decide, by decide, by decide⟩⟩

theorem witness_SingleTransferStops_store :
    (∃ a, (put 0 0x2002#32 (user 0#4)).StoreForm (.strImm 1#3 0#3 0#5) 1#3 .word a ∧ a.toNat % Size.word.bytes ≠ 0) ∧
    (∃ a, aborting.StoreForm (.strImm 1#3 0#3 0#5) 1#3 .word a ∧ a.toNat % Size.word.bytes = 0 ∧
      aborting.aborts .write .word a = true) :=
  ⟨⟨_, .strImm 1#3 0#3 0#5, by decide⟩, ⟨_, .strImm 1#3 0#3 0#5, by decide, by decide⟩⟩

/-- SP at 0x3000 and eight words from there on. -/
def stacked : State := put 13 0x3000#32 (word 0x3000#32 0xA0#32 (word 0x3004#32 0x1235#32 (user 0#4)))

theorem witness_BlockStores : (∃ start final, stacked.BlockStoreForm (.pushLr 0#8) (regList 0#8 ++ [lrReg]) start spReg final ∧
      start.toNat % 4 = 0 ∧ ∀ k, k < (regList 0#8 ++ [lrReg]).length → stacked.aborts .write .word (wordAt start k) = false) ∧
    (∃ start final, stacked.BlockStoreForm (.push 0xFF#8) (regList 0xFF#8) start spReg final ∧ start.toNat % 4 = 0 ∧
      ∀ k, k < (regList 0xFF#8).length → stacked.aborts .write .word (wordAt start k) = false) ∧
    ∃ start final, stacked.BlockStoreForm (.stmia 7#3 0x7F#8) (regList 0x7F#8) start (loReg 7#3) final ∧ start.toNat % 4 = 0 ∧
      ∀ k, k < (regList 0x7F#8).length → stacked.aborts .write .word (wordAt start k) = false :=
  ⟨⟨_, _, .pushLr 0#8, by decide, by decide⟩, ⟨_, _, .push 0xFF#8, by decide, by decide⟩,
    ⟨_, _, .stmia 7#3 0x7F#8 (by decide), by decide, by decide⟩⟩

/-- POP with PC, POP, and LDMIA from 0x3000. -/
theorem witness_BlockLoads : stacked.thumb = true ∧
    (∃ start final, stacked.BlockLoadForm (.popPc 1#8) (regList 1#8 ++ [pcReg]) start spReg final ∧ start.toNat % 4 = 0 ∧
      ∀ k, k < (regList 1#8 ++ [pcReg]).length → stacked.aborts .read .word (wordAt start k) = false ∧
        stacked.readWord (wordAt start k) = some (if k = 0 then 0xA0#32 else 0x1235#32)) ∧
    (∃ start final, stacked.BlockLoadForm (.pop 0x81#8) (regList 0x81#8) start spReg final ∧ start.toNat % 4 = 0 ∧
      ∀ k, k < (regList 0x81#8).length → stacked.aborts .read .word (wordAt start k) = false ∧
        stacked.readWord (wordAt start k) = some (if k = 0 then 0xA0#32 else 0x1235#32)) ∧
    ∃ start final, (put 1 0x3000#32 stacked).BlockLoadForm (.ldmia 1#3 0x81#8) (regList 0x81#8) start (loReg 1#3) final ∧
      start.toNat % 4 = 0 ∧ ∀ k, k < (regList 0x81#8).length →
        (put 1 0x3000#32 stacked).aborts .read .word (wordAt start k) = false ∧
        (put 1 0x3000#32 stacked).readWord (wordAt start k) = some (if k = 0 then 0xA0#32 else 0x1235#32) :=
  ⟨by decide, ⟨_, _, .popPc 1#8, by decide, by decide⟩, ⟨_, _, .pop 0x81#8, by decide, by decide⟩,
    ⟨_, _, .ldmia 1#3 0x81#8 (by decide), by decide, by decide⟩⟩

theorem witness_PushThenPop : (regList 0x0F#8).length = (regList 0xF0#8).length ∧ regList 0x0F#8 ≠ [] ∧
    (stacked.readReg 13).toNat % 4 = 0 ∧
    ∀ k, k < (regList 0x0F#8).length →
      stacked.aborts .write .word (wordAt (stacked.readReg 13 - BitVec.ofNat 32 (4 * (regList 0x0F#8).length)) k) = false ∧
      stacked.aborts .read .word (wordAt (stacked.readReg 13 - BitVec.ofNat 32 (4 * (regList 0x0F#8).length)) k) = false ∧
      stacked.inRam .word (wordAt (stacked.readReg 13 - BitVec.ofNat 32 (4 * (regList 0x0F#8).length)) k) = true := by decide

theorem witness_BlockTransferRefused : BitVec.getLsbD 0x80#8 (7#3).toNat = true ∧
    ∃ start final, (put 13 0x3002#32 (user 0#4)).BlockStoreForm (.push 1#8) (regList 1#8) start spReg final ∧ regList 1#8 ≠ [] ∧
      start.toNat % 4 ≠ 0 :=
  ⟨by decide, ⟨_, _, .push 1#8, by decide, by decide⟩⟩

theorem witness_BlockTransferRefused_load :
    ∃ start final, (put 13 0x3002#32 (user 0#4)).BlockLoadForm (.popPc 0#8) (regList 0#8 ++ [pcReg]) start spReg final ∧
      regList 0#8 ++ [pcReg] ≠ [] ∧ start.toNat % 4 ≠ 0 :=
  ⟨_, _, .popPc 0#8, by decide, by decide⟩

/-- STMIA of three registers, the second access aborted. -/
theorem witness_BlockStoreAborted : ∃ start final,
    (abortData 0x2004#32 0x2007#32 loading).BlockStoreForm (.stmia 0#3 0x38#8) (regList 0x38#8) start (loReg 0#3) final ∧
      start.toNat % 4 = 0 ∧ ∃ k, k < (regList 0x38#8).length ∧
        (abortData 0x2004#32 0x2007#32 loading).aborts .write .word (wordAt start k) = true :=
  ⟨_, _, .stmia 0#3 0x38#8 (by decide), by decide, 1, by decide, by decide⟩

/-- POP of R0 and PC, the second access aborted. -/
theorem witness_BlockLoadAborted : ∃ start final,
    (abortData 0x3004#32 0x3004#32 stacked).BlockLoadForm (.popPc 1#8) (regList 1#8 ++ [pcReg]) start spReg final ∧
      start.toNat % 4 = 0 ∧ 1 < (regList 1#8 ++ [pcReg]).length ∧
      (∀ j, j < 1 → (abortData 0x3004#32 0x3004#32 stacked).aborts .read .word (wordAt start j) = false ∧
        (abortData 0x3004#32 0x3004#32 stacked).readWord (wordAt start j) = some 0xA0#32) ∧
      (abortData 0x3004#32 0x3004#32 stacked).aborts .read .word (wordAt start 1) = true :=
  ⟨_, _, .popPc 1#8, by decide, by decide, by decide, by decide⟩

theorem witness_SingleFlagBranches : (user 4#4).pc.getLsbD 0 = false ∧ ((Instr.bne 0x80#8, false) : Instr × Bool) ∈
    [(.beq 0x80#8, (user 4#4).flagZ), (.bne 0x80#8, !(user 4#4).flagZ), (.bcs 0x80#8, (user 4#4).flagC),
      (.bcc 0x80#8, !(user 4#4).flagC), (.bmi 0x80#8, (user 4#4).flagN), (.bpl 0x80#8, !(user 4#4).flagN),
      (.bvs 0x80#8, (user 4#4).flagV), (.bvc 0x80#8, !(user 4#4).flagV)] := by decide

theorem witness_SeveralFlagBranches : (user 9#4).pc.getLsbD 0 = false ∧ ((Instr.bge 0x7F#8, true) : Instr × Bool) ∈
    [(.bhi 0x7F#8, (user 9#4).flagC && !(user 9#4).flagZ), (.bls 0x7F#8, !(user 9#4).flagC || (user 9#4).flagZ),
      (.bge 0x7F#8, decide ((user 9#4).flagN = (user 9#4).flagV)),
      (.blt 0x7F#8, decide ((user 9#4).flagN ≠ (user 9#4).flagV)),
      (.bgt 0x7F#8, !(user 9#4).flagZ && decide ((user 9#4).flagN = (user 9#4).flagV)),
      (.ble 0x7F#8, (user 9#4).flagZ || decide ((user 9#4).flagN ≠ (user 9#4).flagV))] := by decide

/-- `B` to itself at the PC, nothing more to come from outside. -/
def looping : State := (user 0#4).withFetchWord 16 0xE7FE

theorem witness_UnconditionalBranch : looping.pc.getLsbD 0 = false ∧ looping.Undisturbed ∧ looping.thumb = true ∧
    looping.readHalf looping.pc = some 0xE7FE#16 ∧ looping.pc.toNat ∉ looping.stored ∧
    (looping.pc + 1#32).toNat ∉ looping.stored ∧ looping.upcoming = [] ∧ looping.masters = [] ∧
    looping.irqMasked = false ∧ looping.ended = true :=
  ⟨by decide, ⟨by decide, by decide, .inl (by decide), .inl (by decide), by decide, by decide⟩, by decide, by decide, by decide,
    by decide, by decide, by decide, by decide, by decide⟩

/-- The furthest offsets of a BL pair, back and forward. -/
theorem witness_BranchLinkPair : (user 0#4).pc.getLsbD 0 = false ∧ BitVec.getLsbD 0x400000#23 0 = false ∧
    BitVec.getLsbD 0x3FFFFE#23 0 = false := by decide

theorem witness_ArmBranches : (arm .usr 0#4).condPassed 1#4 = true ∧ (arm .usr 0#4).pc.getLsbD 0 = false ∧
    (arm .usr 0#4).pc.getLsbD 1 = false := by decide

theorem witness_ArmConditionFails : (arm .usr 0#4).condPassed 0#4 = false ∧ Instr.armSwi 0#4 0xFFFFFF#24 ∈
    [Instr.armBx 0#4 15#4, .armMovsPcLr 0#4, .armSubsPcLr4 0#4, .armSubsPcLr8 0#4, .armMovPcLr 0#4, .armB 0#4 0xFFFFFF#24,
      .armBl 0#4 0xFFFFFF#24, .armSwi 0#4 0xFFFFFF#24] := by decide

end Sys2Proof.Tests
end

section
/-! PROOFS. The state after reset (R50), and the register file: what each number names in each mode (R21, R22). -/

namespace Sys2Proof.Machine

/-! ### The state after reset (R50) -/

/-- Settles O5: the control bits are read off the CPSR a reset gives, 0xD3. -/
theorem resetValues : Obligations.ResetValues := by
  unfold Obligations.ResetValues
  have hcpsr : State.reset.cpsr = 0x000000D3#32 := rfl
  simp only [State.modeBits, State.irqMasked, State.fiqMasked, State.thumb, hcpsr]
  exact ⟨rfl, by decide, by decide, by decide, by decide⟩

/-! ### Register numbers above 7 (R22)

`phys_loReg` says what the numbers 0 to 7 name, `phys_spReg`, `phys_lrReg` and `phys_pcReg` what 13, 14 and 15 do. -/

/-- R8 to R12 are one copy in every mode but FIQ. -/
theorem phys_mid {m : Option Mode} (hm : m ≠ some .fiq) (i : Fin 5) :
    phys m ⟨8 + i.val, by omega⟩ = some (.mid i) := by
  have hlt : 8 + i.val < 13 := by omega
  simp [phys, hm, hlt]

/-- FIQ mode has R8 to R12 of its own. -/
theorem phys_midFiq (i : Fin 5) : phys (some .fiq) ⟨8 + i.val, by omega⟩ = some (.midFiq i) := by
  have hlt : 8 + i.val < 13 := by omega
  simp [phys, hlt]

theorem phys_thirteen (m : Mode) : phys (some m) 13 = some (.r13 m.bank) := phys_spReg (some m)

theorem phys_fourteen (m : Mode) : phys (some m) 14 = some (.r14 m.bank) := phys_lrReg (some m)

/-- Settles O12: number by number, the SPSRs mode by mode, and the table of mode bits row by row. -/
theorem registerBanks : Obligations.RegisterBanks := by
  unfold Obligations.RegisterBanks
  refine ⟨?low, ?mid, phys_midFiq, ?banked, phys_pcReg, ?saved, ?bits⟩
  case low => exact fun m i => phys_loReg m (.ofFin i)
  case mid => exact fun m i hm => phys_mid (by simpa using hm) i
  case banked => simp [phys_thirteen, phys_fourteen, Mode.bank]
  case saved => exact fun s => ⟨rfl, rfl, rfl, rfl, rfl, rfl, rfl⟩
  case bits => decide

end Sys2Proof.Machine
end

section
/-! PROOFS. Memory: the bytes of a word in both byte orders (R63, R64). -/

namespace Sys2Proof.Machine

/-! ### A word joined from bytes -/

/-- Above the lowest byte, joined bits are read from what stands above it. -/
theorem extractByte_append {m : Nat} (n : Nat) (x : BitVec m) (b : Byte) :
    (x ++ b).extractLsb' (n + 8) 8 = x.extractLsb' n 8 := by
  rw [BitVec.extractLsb'_append_eq_of_le (Nat.le_add_left 8 n), Nat.add_sub_cancel]

/-- Each byte of four joined, the highest first, read at its own place. -/
theorem extractByte_join (b3 b2 b1 b0 : Byte) :
    (b3 ++ b2 ++ b1 ++ b0).extractLsb' 24 8 = b3 ∧ (b3 ++ b2 ++ b1 ++ b0).extractLsb' 16 8 = b2 ∧
    (b3 ++ b2 ++ b1 ++ b0).extractLsb' 8 8 = b1 ∧ (b3 ++ b2 ++ b1 ++ b0).extractLsb' 0 8 = b0 := by
  refine ⟨?_, ?_, ?_, BitVec.extractLsb'_append_eq_right⟩
  · rw [extractByte_append 16, extractByte_append 8, BitVec.extractLsb'_append_eq_left]
  · rw [extractByte_append 8, extractByte_append 0, BitVec.extractLsb'_append_eq_right]
  · rw [extractByte_append 0, BitVec.extractLsb'_append_eq_right]

/-- The other direction of `wordOfBytes_byteOfWord`: a word made of four bytes has these bytes, in the same byte order. -/
theorem byteOfWord_wordOfBytes (big : Bool) (b0 b1 b2 b3 : Byte) :
    byteOfWord big (wordOfBytes big b0 b1 b2 b3) 0 = b0 ∧ byteOfWord big (wordOfBytes big b0 b1 b2 b3) 1 = b1 ∧
    byteOfWord big (wordOfBytes big b0 b1 b2 b3) 2 = b2 ∧ byteOfWord big (wordOfBytes big b0 b1 b2 b3) 3 = b3 := by
  cases big with
  | true => exact extractByte_join b0 b1 b2 b3
  | false =>
    obtain ⟨h3, h2, h1, h0⟩ := extractByte_join b3 b2 b1 b0
    exact ⟨h0, h1, h2, h3⟩

/-- A byte of a word as a shift of the word, the way R63 and R64 number the bits. -/
theorem byteOfWord_eq_shift (big : Bool) (w : Word) (k : Nat) :
    byteOfWord big w k = if big then (w >>> (24 - 8 * k)).setWidth 8 else (w >>> (8 * k)).setWidth 8 := by
  simp only [byteOfWord, BitVec.setWidth_ushiftRight_eq_extractLsb]

/-! ### A word read from memory -/

/-- Where a word is read, its four bytes hold values and it is made of them. -/
theorem State.bytes_of_readWord {s : State} {a w : Word} (h : s.readWord a = some w) :
    ∃ b0 b1 b2 b3, s.readByte a = some b0 ∧ s.readByte (a + 1#32) = some b1 ∧ s.readByte (a + 2#32) = some b2 ∧
      s.readByte (a + 3#32) = some b3 ∧ wordOfBytes s.bigend b0 b1 b2 b3 = w := by
  unfold State.readWord at h
  split at h
  next b0 b1 b2 b3 h0 h1 h2 h3 => exact ⟨b0, b1, b2, b3, h0, h1, h2, h3, Option.some.inj h⟩
  next => cases h

/-- Where a word is read, its byte `k` is at its address plus `k`. -/
theorem State.readByte_of_readWord {s : State} {a w : Word} (h : s.readWord a = some w) {k : Nat} (hk : k < 4) :
    s.readByte (a + BitVec.ofNat 32 k) = some (byteOfWord s.bigend w k) := by
  obtain ⟨b0, b1, b2, b3, h0, h1, h2, h3, rfl⟩ := State.bytes_of_readWord h
  obtain ⟨e0, e1, e2, e3⟩ := byteOfWord_wordOfBytes s.bigend b0 b1 b2 b3
  match k, hk with
  | 0, _ => rw [BitVec.add_zero, h0, e0]
  | 1, _ => rw [h1, e1]
  | 2, _ => rw [h2, e2]
  | 3, _ => rw [h3, e3]

/-- Settles O14: a word stored is a word that can be read (`State.readWord_writeWord`), so both halves are
`State.readByte_of_readWord`. -/
theorem wordByteOrder : Obligations.WordByteOrder := by
  unfold Obligations.WordByteOrder
  intro s a w k hk
  rw [← byteOfWord_eq_shift]
  have sameOrder : (s.writeWord a w).bigend = s.bigend := (s.onlyMemory_writeWord a w).bigend
  constructor
  · rw [← sameOrder]
    exact State.readByte_of_readWord (s.readWord_writeWord a w) hk
  · exact fun h => State.readByte_of_readWord h hk

end Sys2Proof.Machine
end

section
/-! PROOFS. The decoder on the words of formats 6 to 11 (R106 to R111, R121). -/

namespace Sys2Proof

open BitVec in
/-- A word of format 6 or 11 (R106, R111): the bits the decoder branches on first, Rd, and the immediate. -/
theorem fields_reg8_imm8 (op : BitVec 5) (rd : BitVec 3) (imm : BitVec 8) :
    (op ++ rd ++ imm).extractLsb' 11 5 = op ∧ fieldReg8 (op ++ rd ++ imm) = rd ∧ fieldImm8 (op ++ rd ++ imm) = imm :=
  ⟨(extractLsb'_append_eq_of_le (by decide)).trans extractLsb'_append_eq_left,
    (extractLsb'_append_eq_of_le (by decide)).trans extractLsb'_append_eq_right, extractLsb'_append_eq_right⟩

open BitVec in
/-- A word of format 9 or 10 (R109, R110): the bits the decoder branches on first, the offset, Rb and Rd. -/
theorem fields_off5_mid_low (op off : BitVec 5) (rb rd : BitVec 3) :
    (op ++ off ++ rb ++ rd).extractLsb' 11 5 = op ∧ fieldOff5 (op ++ off ++ rb ++ rd) = off ∧
      fieldMid (op ++ off ++ rb ++ rd) = rb ∧ fieldLow (op ++ off ++ rb ++ rd) = rd :=
  ⟨(extractLsb'_append_eq_of_le (by decide)).trans
      ((extractLsb'_append_eq_of_le (by decide)).trans extractLsb'_append_eq_left),
    (extractLsb'_append_eq_of_le (by decide)).trans
      ((extractLsb'_append_eq_of_le (by decide)).trans extractLsb'_append_eq_right),
    (extractLsb'_append_eq_of_le (by decide)).trans extractLsb'_append_eq_right, extractLsb'_append_eq_right⟩

open BitVec in
/-- A word of format 7 or 8 (R107, R108): the bits the decoder branches on first, those that tell the eight instructions
apart, Ro, Rb and Rd. -/
theorem fields_high_mid_low (op : BitVec 7) (ro rb rd : BitVec 3) :
    (op ++ ro ++ rb ++ rd).extractLsb' 11 5 = op.extractLsb' 2 5 ∧
      (op ++ ro ++ rb ++ rd).extractLsb' 9 3 = op.extractLsb' 0 3 ∧ fieldHigh (op ++ ro ++ rb ++ rd) = ro ∧
      fieldMid (op ++ ro ++ rb ++ rd) = rb ∧ fieldLow (op ++ ro ++ rb ++ rd) = rd :=
  have above {start len : Nat} (h : 9 ≤ start) :
      (op ++ ro ++ rb ++ rd).extractLsb' start len = op.extractLsb' (start - 3 - 3 - 3) len :=
    (extractLsb'_append_eq_of_le (by omega)).trans
      ((extractLsb'_append_eq_of_le (by omega)).trans (extractLsb'_append_eq_of_le (by omega)))
  ⟨above (by decide), above (by decide),
    (extractLsb'_append_eq_of_le (by decide)).trans
      ((extractLsb'_append_eq_of_le (by decide)).trans extractLsb'_append_eq_right),
    (extractLsb'_append_eq_of_le (by decide)).trans extractLsb'_append_eq_right, extractLsb'_append_eq_right⟩

/-- The words of formats 6 and 11 (R106, R111). -/
theorem decodeThumb_reg8_imm8 (rd : BitVec 3) (imm : BitVec 8) :
    decodeThumb (0b01001#5 ++ rd ++ imm) = .ldrPc rd imm ∧
    decodeThumb (0b10010#5 ++ rd ++ imm) = .strSp rd imm ∧
    decodeThumb (0b10011#5 ++ rd ++ imm) = .ldrSp rd imm := by
  simp only [decodeThumb, fields_reg8_imm8, and_self]

/-- The words of formats 9 and 10 (R109, R110). -/
theorem decodeThumb_off5_mid_low (rd rb : BitVec 3) (off : BitVec 5) :
    decodeThumb (0b01100#5 ++ off ++ rb ++ rd) = .strImm rd rb off ∧
    decodeThumb (0b01101#5 ++ off ++ rb ++ rd) = .ldrImm rd rb off ∧
    decodeThumb (0b01110#5 ++ off ++ rb ++ rd) = .strbImm rd rb off ∧
    decodeThumb (0b01111#5 ++ off ++ rb ++ rd) = .ldrbImm rd rb off ∧
    decodeThumb (0b10000#5 ++ off ++ rb ++ rd) = .strhImm rd rb off ∧
    decodeThumb (0b10001#5 ++ off ++ rb ++ rd) = .ldrhImm rd rb off := by
  simp only [decodeThumb, fields_off5_mid_low, and_self]

/-- The words of formats 7 and 8 (R107, R108); the decoder has LDSH as its default. -/
theorem decodeThumb_high_mid_low (rd rb ro : BitVec 3) :
    decodeThumb (0b0101000#7 ++ ro ++ rb ++ rd) = .strReg rd rb ro ∧
    decodeThumb (0b0101001#7 ++ ro ++ rb ++ rd) = .strhReg rd rb ro ∧
    decodeThumb (0b0101010#7 ++ ro ++ rb ++ rd) = .strbReg rd rb ro ∧
    decodeThumb (0b0101011#7 ++ ro ++ rb ++ rd) = .ldsbReg rd rb ro ∧
    decodeThumb (0b0101100#7 ++ ro ++ rb ++ rd) = .ldrReg rd rb ro ∧
    decodeThumb (0b0101101#7 ++ ro ++ rb ++ rd) = .ldrhReg rd rb ro ∧
    decodeThumb (0b0101110#7 ++ ro ++ rb ++ rd) = .ldrbReg rd rb ro ∧
    decodeThumb (0b0101111#7 ++ ro ++ rb ++ rd) = .ldshReg rd rb ro := by
  simp only [decodeThumb, decodeRegOffset, fields_high_mid_low, BitVec.reduceExtractLsb', true_and]
  rfl

end Sys2Proof
end

section
/-! PROOFS. The single loads and stores, formats 6 to 11 (R200 to R217): where a transfer goes through, what it leaves. -/

namespace Sys2Proof.Machine

/-! ### Addresses and alignment (R67, R120) -/

theorem aligned_eq_true {z : Size} {a : Word} : aligned z a = true ↔ a.toNat % z.bytes = 0 := beq_iff_eq

theorem immU_eq_ofNat {n : Nat} (imm : BitVec n) : immU imm = BitVec.ofNat 32 imm.toNat :=
  (BitVec.ofNat_toNat 32 imm).symm

theorem immU2_eq_ofNat {n : Nat} (imm : BitVec n) : immU2 imm = BitVec.ofNat 32 (2 * imm.toNat) := by
  apply BitVec.eq_of_toNat_eq
  simp [immU2, Nat.shiftLeft_eq]
  omega

theorem immU4_eq_ofNat {n : Nat} (imm : BitVec n) : immU4 imm = BitVec.ofNat 32 (4 * imm.toNat) := by
  apply BitVec.eq_of_toNat_eq
  simp [immU4, Nat.shiftLeft_eq]
  omega

/-! ### The two transfers, each form being one of them -/

/-- An instruction of the single loads is the load its form names, the value extended into Rd. -/
theorem State.LoadForm.exec_eq {s : State} {i : Instr} {rd : BitVec 3} {z : Size} {a : Word} {f : Word → Word}
    (form : s.LoadForm i rd z a f) : exec i s = s.load z a (fun v => s.putLoaded rd (f v)) := by
  cases form with
  | ldrPc => rw [← immU4_eq_ofNat]; rfl
  | ldrImm => rw [← immU4_eq_ofNat]; rfl
  | ldrSp => rw [← immU4_eq_ofNat]; rfl
  | ldrbImm => rw [← immU_eq_ofNat]; rfl
  | ldrhImm => rw [← immU2_eq_ofNat]; rfl
  | ldrReg | ldrbReg | ldsbReg | ldrhReg | ldshReg => rfl

/-- An instruction of the single stores is the store of Rd its form names. -/
theorem State.StoreForm.exec_eq {s : State} {i : Instr} {rd : BitVec 3} {z : Size} {a : Word}
    (form : s.StoreForm i rd z a) : exec i s = s.store z a (s.readReg (loReg rd)) := by
  cases form with
  | strImm => rw [← immU4_eq_ofNat]; rfl
  | strSp => rw [← immU4_eq_ofNat]; rfl
  | strbImm => rw [← immU_eq_ofNat]; rfl
  | strhImm => rw [← immU2_eq_ofNat]; rfl
  | strReg | strbReg | strhReg => rfl

/-! ### Loads (R200, R201, R204, R207 to R209, R211, R215, R217) -/

/-- A load that is aligned, not aborted and of no device goes on with the value read. -/
theorem State.load_of_readMem {s : State} {z : Size} {a v : Word} (k : Word → State) (hal : a.toNat % z.bytes = 0)
    (hab : s.aborts .read z a = false) (hdev : s.onDevice z a = false) (hv : s.readMem z a = some v) :
    s.load z a k = .next (k v) := by
  simp [State.load, aligned_eq_true.mpr hal, hab, hdev, hv]

/-- A loaded value changes Rd and the PC only. -/
theorem State.putLoaded_plainResult (s : State) (rd : BitVec 3) (v : Word) :
    s.PlainResult (s.putLoaded rd v) (loReg rd) v :=
  State.plainResult_writeReg s _ (loReg rd) v (loReg_ne_pcReg rd) (by
    simp only [State.putLoaded, State.advanceThumb, State.writeReg_loReg_pc])

/-- A single load that goes through puts the value read, extended, into Rd. -/
theorem State.LoadForm.plainResult {s : State} {i : Instr} {rd : BitVec 3} {z : Size} {a v : Word} {f : Word → Word}
    (form : s.LoadForm i rd z a f) (hal : a.toNat % z.bytes = 0) (hab : s.aborts .read z a = false)
    (hdev : s.onDevice z a = false) (hv : s.readMem z a = some v) :
    ∃ t, exec i s = .next t ∧ s.PlainResult t (loReg rd) (f v) :=
  ⟨_, form.exec_eq.trans (State.load_of_readMem _ hal hab hdev hv), s.putLoaded_plainResult rd (f v)⟩

/-- A load of a word does not extend it. -/
theorem State.LoadForm.extend_word {s : State} {i : Instr} {rd : BitVec 3} {a : Word} {f : Word → Word}
    (form : s.LoadForm i rd .word a f) : f = id := by
  cases form <;> rfl

/-- Settles O40: each word load is a `State.LoadForm`, whose value is not extended. -/
theorem wordLoads : Obligations.WordLoads := by
  unfold Obligations.WordLoads
  constructor
  · intro rd rb ro imm off
    obtain ⟨hldrPc, -, hldrSp⟩ := decodeThumb_reg8_imm8 rd imm
    obtain ⟨-, hldrImm, -⟩ := decodeThumb_off5_mid_low rd rb off
    obtain ⟨-, -, -, -, hldrReg, -⟩ := decodeThumb_high_mid_low rd rb ro
    exact ⟨hldrPc, hldrReg, hldrImm, hldrSp⟩
  · intro s i rd a v f form hal hab hdev hv
    obtain rfl := form.extend_word
    exact form.plainResult hal hab hdev hv

/-- A value widened with zeros and its low part widened with the sign: the value's own sign extension. -/
theorem signExtend_setWidth_word {n : Nat} (x : BitVec n) (hn : n ≤ 32) :
    ((x.setWidth 32).setWidth n).signExtend 32 = BitVec.ofInt 32 x.toInt := by
  rw [BitVec.setWidth_setWidth_of_le x hn, BitVec.setWidth_eq]
  rfl

theorem State.readMem_byte {s : State} {a : Word} {b : Byte} (h : s.readByte a = some b) :
    s.readMem .byte a = some (b.setWidth 32) := by
  simp [State.readMem, h]

theorem State.readMem_half {s : State} {a : Word} {h : Half} (hh : s.readHalf a = some h) :
    s.readMem .half a = some (h.setWidth 32) := by
  simp [State.readMem, hh]

/-- Settles O41: each of these loads is a `State.LoadForm`; what remains is what its extension makes of the value, read
with zeros above it. -/
theorem extendingLoads : Obligations.ExtendingLoads := by
  unfold Obligations.ExtendingLoads
  constructor
  · intro rd rb ro off
    obtain ⟨-, -, -, -, -, hldrhImm⟩ := decodeThumb_off5_mid_low rd rb off
    obtain ⟨-, -, -, hldsb, -, hldrh, -, hldsh⟩ := decodeThumb_high_mid_low rd rb ro
    exact ⟨hldrh, hldsb, hldsh, hldrhImm⟩
  · intro s rd rb ro off a
    refine ⟨?signedByte, ?regHalf, ?immHalf⟩
    case signedByte =>
      rintro b rfl hab hdev hb
      rw [← signExtend_setWidth_word b (by decide)]
      exact (State.LoadForm.ldsbReg rd rb ro).plainResult (Nat.mod_one _) hab hdev (State.readMem_byte hb)
    case regHalf =>
      rintro h rfl hal hab hdev hh
      rw [← signExtend_setWidth_word h (by decide), BitVec.ofNat_toNat]
      exact ⟨(State.LoadForm.ldrhReg rd rb ro).plainResult hal hab hdev (State.readMem_half hh),
        (State.LoadForm.ldshReg rd rb ro).plainResult hal hab hdev (State.readMem_half hh)⟩
    case immHalf =>
      rintro h rfl hal hab hdev hh
      rw [BitVec.ofNat_toNat]
      exact (State.LoadForm.ldrhImm rd rb off).plainResult hal hab hdev (State.readMem_half hh)

/-! ### Stores (R200, R202, R203, R206, R210, R212, R214, R216) -/

/-- A store that is aligned, not aborted and in RAM writes memory and goes past the instruction. -/
theorem State.store_of_inRam {s : State} {z : Size} {a : Word} (v : Word) (hal : a.toNat % z.bytes = 0)
    (hab : s.aborts .write z a = false) (hram : s.inRam z a = true) :
    s.store z a v = .next (s.writeMem z a v).advanceThumb := by
  simp [State.store, aligned_eq_true.mpr hal, hab, hram]

theorem State.SameMemoryBut.refl (s : State) (a : Word) : s.SameMemoryBut s a 0 :=
  ⟨fun _ _ => rfl, by simp⟩

/-- One more byte written after `n` bytes is one byte more that is not kept. -/
theorem State.SameMemoryBut.writeByte {s t : State} {a : Word} {n : Nat} (h : s.SameMemoryBut t a n) (b : Byte) :
    s.SameMemoryBut (t.writeByte (a + BitVec.ofNat 32 n) b) a (n + 1) where
  bytes c hc := by
    rw [State.readByte_writeByte, if_neg (hc n (Nat.lt_succ_self n))]
    exact h.bytes c fun k hk => hc k (Nat.lt_succ_of_lt hk)
  stored c := by
    rw [State.mem_writeByte_stored, h.stored, Nat.exists_lt_succ_right, or_comm, or_assoc]

/-- A store of any size changes and records only its own bytes. -/
theorem State.sameMemoryBut_writeMem (s : State) (z : Size) (a v : Word) :
    s.SameMemoryBut (s.writeMem z a v) a z.bytes := by
  have byte (b : Byte) : s.SameMemoryBut (s.writeByte a b) a 1 := by
    simpa using (State.SameMemoryBut.refl s a).writeByte b
  cases z with
  | byte => exact byte _
  | half => exact (byte _).writeByte _
  | word => exact (((byte _).writeByte _).writeByte _).writeByte _

/-- What only memory tells apart from `s` keeps everything else past the instruction. -/
theorem State.OnlyMemory.stored_advanceThumb {s u : State} {a : Word} {n : Nat} (h : s.OnlyMemory u)
    (m : s.SameMemoryBut u a n) : s.Stored u.advanceThumb a n where
  memory := ⟨m.bytes, m.stored⟩
  flags := by constructor <;> simp [State.flagN, State.flagZ, State.flagC, State.flagV, h.cpsr]
  state := h.thumb
  pc := by simp [h.pc]
  keeps :=
    { regs := fun p _ => h.getPhys p
      saved := ⟨h.spsrFiq, h.spsrIrq, h.spsrSvc, h.spsrAbt, h.spsrUnd⟩
      control := State.sameControl_of_bits fun j _ _ => by simp [h.cpsr]
      inputs := ⟨h.lines, h.upcoming, h.masters, h.resetting, h.memoryMap, h.bigend, h.unallocTraps⟩
      draws := h.draws }

/-- A single store that goes through ends past the instruction with Rd written to memory, and changes nothing else. -/
theorem State.StoreForm.stored {s : State} {i : Instr} {rd : BitVec 3} {z : Size} {a : Word}
    (form : s.StoreForm i rd z a) (hal : a.toNat % z.bytes = 0) (hab : s.aborts .write z a = false)
    (hram : s.inRam z a = true) :
    exec i s = .next (s.writeMem z a (s.readReg (loReg rd))).advanceThumb ∧
      s.Stored (s.writeMem z a (s.readReg (loReg rd))).advanceThumb a z.bytes :=
  ⟨form.exec_eq.trans (State.store_of_inRam _ hal hab hram),
    (s.onlyMemory_writeMem z a _).stored_advanceThumb (s.sameMemoryBut_writeMem z a _)⟩

/-- A halfword written is read back. -/
theorem State.readHalf_writeHalf (s : State) (a : Word) (h : Half) : (s.writeHalf a h).readHalf a = some h := by
  have sameOrder : (s.writeHalf a h).bigend = s.bigend := rfl
  have apart : a ≠ a + 1#32 := by bv_omega
  unfold State.readHalf
  rw [State.readByte_writeHalf, State.readByte_writeHalf, sameOrder]
  simp [apart, halfOfBytes_byteOfHalf]

/-- Settles O43: a word store that goes through is `State.StoreForm.stored`, its word read back by
`State.readWord_writeWord`. -/
theorem wordStores : Obligations.WordStores := by
  unfold Obligations.WordStores
  constructor
  · intro rd rb ro imm off
    obtain ⟨-, hstrSp, -⟩ := decodeThumb_reg8_imm8 rd imm
    obtain ⟨hstrImm, -⟩ := decodeThumb_off5_mid_low rd rb off
    obtain ⟨hstrReg, -⟩ := decodeThumb_high_mid_low rd rb ro
    exact ⟨hstrReg, hstrImm, hstrSp⟩
  · intro s i rd a form hal hab hram
    obtain ⟨hexec, hstored⟩ := form.stored hal hab hram
    exact ⟨_, hexec, s.readWord_writeWord a _, hstored⟩

/-- Settles O44: a byte or halfword store that goes through is `State.StoreForm.stored`, the low part of Rd read back. -/
theorem narrowStores : Obligations.NarrowStores := by
  unfold Obligations.NarrowStores
  constructor
  · intro rd rb ro off
    obtain ⟨-, -, hstrbImm, -, hstrhImm, -⟩ := decodeThumb_off5_mid_low rd rb off
    obtain ⟨-, hstrhReg, hstrbReg, -⟩ := decodeThumb_high_mid_low rd rb ro
    exact ⟨hstrbReg, hstrbImm, hstrhReg, hstrhImm⟩
  · intro s i rd a
    constructor
    · intro form hab hram
      obtain ⟨hexec, hstored⟩ := form.stored (Nat.mod_one _) hab hram
      exact ⟨_, hexec, (s.readByte_writeByte a a _).trans (if_pos rfl), hstored⟩
    · intro form hal hab hram
      obtain ⟨hexec, hstored⟩ := form.stored hal hab hram
      exact ⟨_, hexec, s.readHalf_writeHalf a _, hstored⟩

end Sys2Proof.Machine
end

section
/-! PROOFS. The decoder on the words of formats 12 and 13 (R112, R113, R121). -/

namespace Sys2Proof

open BitVec in
/-- A word of format 13 (R113): the bits the decoder branches on first, those that tell it from the rest of its prefix, the
sign, and the immediate. -/
theorem fields_sign_imm7 (op : BitVec 9) (imm : BitVec 7) :
    (op ++ imm).extractLsb' 11 5 = op.extractLsb' 4 5 ∧ (op ++ imm).extractLsb' 8 4 = op.extractLsb' 1 4 ∧
      (op ++ imm).getLsbD 7 = op.getLsbD 0 ∧ (op ++ imm).extractLsb' 0 7 = imm :=
  ⟨extractLsb'_append_eq_of_le (by decide), extractLsb'_append_eq_of_le (by decide), getLsbD_append,
    extractLsb'_append_eq_right⟩

/-- The words of format 12 (R112): they have Rd and the immediate where format 11 has them. -/
theorem decodeThumb_loadAddress (rd : BitVec 3) (imm : BitVec 8) :
    decodeThumb (0b10100#5 ++ rd ++ imm) = .addPc rd imm ∧ decodeThumb (0b10101#5 ++ rd ++ imm) = .addSp rd imm := by
  simp only [decodeThumb, fields_reg8_imm8, and_self]

/-- The words of format 13 (R113): bit 7 is the sign. -/
theorem decodeThumb_addOffsetSp (imm : BitVec 7) :
    decodeThumb (0b101100000#9 ++ imm) = .addSpPos imm ∧ decodeThumb (0b101100001#9 ++ imm) = .addSpNeg imm := by
  simp only [decodeThumb, decodeMisc, fields_sign_imm7, BitVec.reduceExtractLsb', BitVec.reduceGetLsb, if_true,
    Bool.false_eq_true, if_false, and_self]

end Sys2Proof
end

section
/-! PROOFS. Load address, and addition to the stack pointer, formats 12 and 13 (R231 to R234). -/

namespace Sys2Proof.Machine

/-- A register number other than 15 written and the instruction passed: the ending of formats 12 and 13. -/
theorem State.plainResult_writeReg_advanceThumb (s : State) {d : RegNum} (r : Word) (hd : d ≠ pcReg) :
    s.PlainResult (s.writeReg d r).advanceThumb d r :=
  State.plainResult_writeReg s _ d r hd (by simp only [State.advanceThumb, s.writeReg_pc r hd])

theorem spReg_ne_pcReg : spReg ≠ pcReg := by decide

/-- Settles O46: each of the four ends in one register written and the PC advanced
(`State.plainResult_writeReg_advanceThumb`), its constant being four times the field (`immU4_eq_ofNat`). -/
theorem addressArithmetic : Obligations.AddressArithmetic := by
  unfold Obligations.AddressArithmetic
  constructor
  · intro rd imm imm7
    obtain ⟨haddPc, haddSp⟩ := decodeThumb_loadAddress rd imm
    obtain ⟨haddSpPos, haddSpNeg⟩ := decodeThumb_addOffsetSp imm7
    exact ⟨haddPc, haddSp, haddSpPos, haddSpNeg⟩
  · intro s rd imm imm7
    have rdResult (r : Word) := s.plainResult_writeReg_advanceThumb r (loReg_ne_pcReg rd)
    have spResult (r : Word) := s.plainResult_writeReg_advanceThumb r spReg_ne_pcReg
    rw [← immU4_eq_ofNat imm, ← immU4_eq_ofNat imm7]
    exact ⟨⟨_, rfl, rdResult _⟩, ⟨_, rfl, rdResult _⟩, ⟨_, rfl, spResult _⟩, ⟨_, rfl, spResult _⟩⟩

end Sys2Proof.Machine
end

section
/-! PROOFS. The decoder on the words of formats 16 and 19 (R116, R119, R121). -/

namespace Sys2Proof

open BitVec in
/-- A word of format 16 (R116): the bits the decoder branches on first, the condition, and the offset. -/
theorem fields_high8_imm8 (op off : BitVec 8) :
    (op ++ off).extractLsb' 11 5 = op.extractLsb' 3 5 ∧ (op ++ off).extractLsb' 8 4 = op.extractLsb' 0 4 ∧
      fieldImm8 (op ++ off) = off :=
  ⟨extractLsb'_append_eq_of_le (by decide), extractLsb'_append_eq_of_le (by decide), extractLsb'_append_eq_right⟩

open BitVec in
/-- A word of format 18 or 19 (R118, R119): the bits the decoder branches on, and the offset. -/
theorem fields_off11 (op : BitVec 5) (off : BitVec 11) :
    (op ++ off).extractLsb' 11 5 = op ∧ fieldOff11 (op ++ off) = off :=
  ⟨extractLsb'_append_eq_left, extractLsb'_append_eq_right⟩

/-- The words of format 16 with a condition on one flag (R116). -/
theorem decodeThumb_singleFlagBranch (off : BitVec 8) :
    decodeThumb (0xD0#8 ++ off) = .beq off ∧ decodeThumb (0xD1#8 ++ off) = .bne off ∧
    decodeThumb (0xD2#8 ++ off) = .bcs off ∧ decodeThumb (0xD3#8 ++ off) = .bcc off ∧
    decodeThumb (0xD4#8 ++ off) = .bmi off ∧ decodeThumb (0xD5#8 ++ off) = .bpl off ∧
    decodeThumb (0xD6#8 ++ off) = .bvs off ∧ decodeThumb (0xD7#8 ++ off) = .bvc off := by
  simp only [decodeThumb, decodeCond, fields_high8_imm8, BitVec.reduceExtractLsb', and_self]

/-- The words of format 16 with a condition on several flags (R116). -/
theorem decodeThumb_severalFlagBranch (off : BitVec 8) :
    decodeThumb (0xD8#8 ++ off) = .bhi off ∧ decodeThumb (0xD9#8 ++ off) = .bls off ∧
    decodeThumb (0xDA#8 ++ off) = .bge off ∧ decodeThumb (0xDB#8 ++ off) = .blt off ∧
    decodeThumb (0xDC#8 ++ off) = .bgt off ∧ decodeThumb (0xDD#8 ++ off) = .ble off := by
  simp only [decodeThumb, decodeCond, fields_high8_imm8, BitVec.reduceExtractLsb', and_self]

/-- The first halfword of format 19 (R119). -/
theorem decodeThumb_blHigh (off : BitVec 11) : decodeThumb (0b11110#5 ++ off) = .blHigh off := by
  simp only [decodeThumb, fields_off11]

/-- The second halfword of format 19 (R119), the decoder's default. -/
theorem decodeThumb_blLow (off : BitVec 11) : decodeThumb (0b11111#5 ++ off) = .blLow off := by
  simp only [decodeThumb, fields_off11]
  rfl

end Sys2Proof
end

section
/-! PROOFS. The THUMB branches of formats 16 and 19 (R255 to R269, R274): their targets, what they leave. -/

namespace Sys2Proof.Machine

/-! ### Even addresses and offsets (R255, R274) -/

/-- The lowest bit of a sum: nothing is carried into it. -/
theorem getLsbD_zero_add (a b : Word) : (a + b).getLsbD 0 = (a.getLsbD 0 ^^ b.getLsbD 0) := by
  rw [BitVec.getLsbD_add (by decide), BitVec.carry_zero, Bool.xor_false]

/-- Dropping bit 0 keeps an even address. -/
theorem and_not_one_of_even {a : Word} (h : a.getLsbD 0 = false) : a &&& ~~~1#32 = a := by
  apply BitVec.eq_of_getLsbD_eq
  intro j hj
  rw [BitVec.getLsbD_and, BitVec.getLsbD_not, BitVec.getLsbD_one]
  cases j with
  | zero => rw [h, Bool.false_and]
  | succ j => simp [hj]

/-- The signed offset in halfwords, doubled (R255). -/
theorem immS2_eq_ofInt {n : Nat} (off : BitVec n) : immS2 off = BitVec.ofInt 32 (2 * off.toInt) := by
  rw [BitVec.ofInt_mul, BitVec.mul_comm]
  exact BitVec.shiftLeft_eq_mul_twoPow _ 1

/-- The high half of a long branch's offset, times 4096 (R275). -/
theorem immS12_eq_ofInt (off : BitVec 11) : immS12 off = BitVec.ofInt 32 (4096 * off.toInt) := by
  rw [BitVec.ofInt_mul, BitVec.mul_comm]
  exact BitVec.shiftLeft_eq_mul_twoPow _ 12

/-- From an even PC, dropping bit 0 does not change the target of a branch. -/
theorem State.branchTarget_even {n : Nat} {s : State} (hpc : s.pc.getLsbD 0 = false) (off : BitVec n) :
    s.branchTarget off &&& ~~~1#32 = s.pc + 4#32 + BitVec.ofInt 32 (2 * off.toInt) := by
  have even : (s.branchTarget off).getLsbD 0 = false := by
    simp only [State.branchTarget, getLsbD_zero_add, hpc]
    simp [immS2]
  rw [and_not_one_of_even even, State.branchTarget, immS2_eq_ofInt]

/-! ### Conditional branches (R255 to R269) -/

/-- A state that differs in the PC only has jumped there. -/
theorem State.jumped_pc (s : State) (a : Word) : s.Jumped { s with pc := a } a s.thumb [] := by
  obtain ⟨keeps, memory⟩ := State.keepsBut_nil (s := s) (t := { s with pc := a }) (fun _ _ _ => rfl) rfl
  exact ⟨rfl, rfl, ⟨rfl, rfl, rfl, rfl⟩, keeps, memory⟩

/-- A conditional branch from an even PC goes to its target where its condition passes, else past itself, and changes
nothing else. -/
theorem State.condBranch_jumped {s : State} (hpc : s.pc.getLsbD 0 = false) (cond : BitVec 4) (off : BitVec 8) :
    ∃ t, s.condBranch cond off = .next t ∧
      s.Jumped t (if s.condPassed cond then s.pc + 4#32 + BitVec.ofInt 32 (2 * off.toInt) else s.pc + 2#32)
        s.thumb [] := by
  unfold State.condBranch
  split
  next => exact ⟨_, rfl, State.branchTarget_even hpc off ▸ s.jumped_pc _⟩
  next => exact ⟨_, rfl, s.jumped_pc _⟩

/-- An instruction that is a conditional branch, taken where the condition of its row in R42 passes. -/
def State.BranchesOn (s : State) (off : BitVec 8) (i : Instr) (taken : Bool) : Prop :=
  ∃ cond, exec i s = s.condBranch cond off ∧ s.condPassed cond = taken

/-- What both families of conditional branches come to, each instruction being one for its own condition. -/
theorem State.BranchesOn.jumped {s : State} {off : BitVec 8} {i : Instr} {taken : Bool} (h : s.BranchesOn off i taken)
    (hpc : s.pc.getLsbD 0 = false) : ∃ t, exec i s = .next t ∧
      s.Jumped t (if taken then s.pc + 4#32 + BitVec.ofInt 32 (2 * off.toInt) else s.pc + 2#32) s.thumb [] := by
  obtain ⟨cond, hexec, rfl⟩ := h
  exact hexec ▸ State.condBranch_jumped hpc cond off

/-- Settles O54: each of the eight is a conditional branch on the condition its flag is in R42
(`State.BranchesOn.jumped`). -/
theorem singleFlagBranches : Obligations.SingleFlagBranches := by
  unfold Obligations.SingleFlagBranches
  refine ⟨decodeThumb_singleFlagBranch, fun s off i taken hpc hmem => ?_⟩
  have branches : s.BranchesOn off i taken := by
    simp only [List.mem_cons, List.not_mem_nil, or_false, Prod.mk.injEq] at hmem
    rcases hmem with ⟨rfl, rfl⟩ | ⟨rfl, rfl⟩ | ⟨rfl, rfl⟩ | ⟨rfl, rfl⟩ | ⟨rfl, rfl⟩ | ⟨rfl, rfl⟩ | ⟨rfl, rfl⟩ | ⟨rfl, rfl⟩
    · exact ⟨0x0#4, rfl, rfl⟩
    · exact ⟨0x1#4, rfl, rfl⟩
    · exact ⟨0x2#4, rfl, rfl⟩
    · exact ⟨0x3#4, rfl, rfl⟩
    · exact ⟨0x4#4, rfl, rfl⟩
    · exact ⟨0x5#4, rfl, rfl⟩
    · exact ⟨0x6#4, rfl, rfl⟩
    · exact ⟨0x7#4, rfl, rfl⟩
  exact branches.jumped hpc

/-- Settles O55: each of the six is a conditional branch on a condition of R42 (`State.BranchesOn.jumped`); N differing
from V is the negation of N equal to V. -/
theorem severalFlagBranches : Obligations.SeveralFlagBranches := by
  unfold Obligations.SeveralFlagBranches
  refine ⟨decodeThumb_severalFlagBranch, fun s off i taken hpc hmem => ?_⟩
  have branches : s.BranchesOn off i taken := by
    simp only [decide_not, ne_eq, List.mem_cons, List.not_mem_nil, or_false, Prod.mk.injEq] at hmem
    rcases hmem with ⟨rfl, rfl⟩ | ⟨rfl, rfl⟩ | ⟨rfl, rfl⟩ | ⟨rfl, rfl⟩ | ⟨rfl, rfl⟩ | ⟨rfl, rfl⟩
    · exact ⟨0x8#4, rfl, rfl⟩
    · exact ⟨0x9#4, rfl, rfl⟩
    · exact ⟨0xA#4, rfl, rfl⟩
    · exact ⟨0xB#4, rfl, rfl⟩
    · exact ⟨0xC#4, rfl, rfl⟩
    · exact ⟨0xD#4, rfl, rfl⟩
  exact branches.jumped hpc

/-! ### The BL pair (R274) -/

theorem lrReg_ne_pcReg : lrReg ≠ pcReg := by decide

/-- An even 23-bit offset is its high half times 4096 plus its low half times 2. -/
theorem toInt_split_offset {off : BitVec 23} (heven : off.getLsbD 0 = false) :
    off.toInt = 4096 * (off.extractLsb' 12 11).toInt + 2 * (off.extractLsb' 1 11).toNat := by
  have low : off.extractLsb' 0 1 = 0#1 := by
    apply BitVec.eq_of_getLsbD_eq
    intro j hj
    obtain rfl : j = 0 := by omega
    simpa using heven
  have halves : off = off.extractLsb' 12 11 ++ (off.extractLsb' 1 11 ++ 0#1) := by
    rw [← low, BitVec.extractLsb'_append_extractLsb'_eq_extractLsb' (by decide),
      BitVec.extractLsb'_append_extractLsb'_eq_extractLsb' (by decide), BitVec.extractLsb'_eq_self]
  have lowHalf : (off.extractLsb' 1 11 ++ 0#1).toNat = 2 * (off.extractLsb' 1 11).toNat := by
    rw [BitVec.toNat_append, BitVec.toNat_zero, Nat.or_zero, Nat.shiftLeft_eq, pow_one, Nat.mul_comm]
  rw [congrArg BitVec.toInt halves, BitVec.toInt_append, lowHalf]
  simp

/-- The two halves of an even offset, as the two instructions add them, make the offset. -/
theorem immS12_add_immU2 {off : BitVec 23} (heven : off.getLsbD 0 = false) :
    immS12 (off.extractLsb' 12 11) + immU2 (off.extractLsb' 1 11) = BitVec.ofInt 32 off.toInt := by
  rw [immS12_eq_ofInt, immU2_eq_ofNat, toInt_split_offset heven, BitVec.ofInt_add, ← BitVec.ofInt_natCast]
  rfl

/-- The first half of BL puts the PC plus 4 plus its part of the offset into LR, and goes past itself. -/
theorem execBlHigh_plainResult (s : State) (off : BitVec 11) :
    ∃ t, exec (.blHigh off) s = .next t ∧ s.PlainResult t lrReg (s.pc + 4#32 + immS12 off) :=
  ⟨_, rfl, s.plainResult_writeReg_advanceThumb _ lrReg_ne_pcReg⟩

/-- The second half of BL goes to LR plus its part of the offset, and puts the next address with bit 0 set into LR. -/
theorem execBlLow_next (s : State) (off : BitVec 11) :
    ∃ u, exec (.blLow off) s = .next u ∧ u.pc = (s.readReg lrReg + immU2 off) &&& ~~~1#32 ∧
      u.readReg lrReg = ((s.pc + 2#32) ||| 1#32) :=
  ⟨_, rfl, rfl, s.readReg_writeReg_self _ lrReg_ne_pcReg⟩

/-- Settles O58: LR carries the PC plus 4 plus the high half from the first instruction to the second, which adds the low
half; the halves make the offset (`immS12_add_immU2`), which is even, so that no bit of the label is dropped. -/
theorem branchLinkPair : Obligations.BranchLinkPair := by
  unfold Obligations.BranchLinkPair
  intro s off hpc heven
  refine ⟨decodeThumb_blHigh _, decodeThumb_blLow _, ?_⟩
  obtain ⟨t, hexecHigh, high⟩ := execBlHigh_plainResult s (off.extractLsb' 12 11)
  obtain ⟨u, hexecLow, target, link⟩ := execBlLow_next t (off.extractLsb' 1 11)
  refine ⟨t, u, hexecHigh, hexecLow, ?label, ?linked⟩
  case label =>
    have offsetEven : (BitVec.ofInt 32 off.toInt).getLsbD 0 = false := by
      show (off.signExtend 32).getLsbD 0 = false
      rw [BitVec.getLsbD_signExtend, if_pos (by decide), heven, Bool.and_false]
    have labelEven : (s.pc + 4#32 + BitVec.ofInt 32 off.toInt).getLsbD 0 = false := by
      simp only [getLsbD_zero_add, hpc, offsetEven]
      rfl
    rw [target, high.value, BitVec.add_assoc, immS12_add_immU2 heven, and_not_one_of_even labelEven]
  case linked =>
    exact link.trans (by rw [high.pc, BitVec.add_assoc]; rfl)

end Sys2Proof.Machine
end

section
/-! PROOFS. The fields of the words that the proofs before this one did not need: formats 2, 4, 5 and the ARM words (R102,
R104, R105, R122, R283 to R289). -/

namespace Sys2Proof

open BitVec in
/-- A word of format 2 (R102): the bits that tell the four instructions apart. Its other fields stand where formats 7 and 8
have them (`fields_high_mid_low`). -/
theorem fields_addSub (op : BitVec 7) (rn rs rd : BitVec 3) :
    (op ++ rn ++ rs ++ rd).extractLsb' 9 2 = op.extractLsb' 0 2 := by
  simp (disch := decide) only [extractLsb'_append_eq_of_le]

open BitVec in
/-- A word of format 4 or 5 (R104, R105): the bits the decoder branches on, in its order, and the two registers. -/
theorem fields_mid_low (op : BitVec 10) (rs rd : BitVec 3) :
    (op ++ rs ++ rd).extractLsb' 11 5 = op.extractLsb' 5 5 ∧ (op ++ rs ++ rd).getLsbD 10 = op.getLsbD 4 ∧
      (op ++ rs ++ rd).extractLsb' 6 4 = op.extractLsb' 0 4 ∧ (op ++ rs ++ rd).getLsbD 6 = op.getLsbD 0 ∧
      fieldMid (op ++ rs ++ rd) = rs ∧ fieldLow (op ++ rs ++ rd) = rd := by
  simp (disch := decide) only [fieldMid, fieldLow, extractLsb'_append_eq_of_le, extractLsb'_append_eq_right, getLsbD_append]
  simpa using extractLsb'_append_eq_right

open BitVec in
/-- A word of format 5 whose H1 and H2 are 0 (R122): the bits the decoder branches on, and the rest. -/
theorem fields_loLo (op : BitVec 10) (x : BitVec 6) :
    (op ++ x).extractLsb' 11 5 = op.extractLsb' 5 5 ∧ (op ++ x).getLsbD 10 = op.getLsbD 4 ∧
      (op ++ x).extractLsb' 6 4 = op.extractLsb' 0 4 ∧ (op ++ x).extractLsb' 0 6 = x :=
  ⟨extractLsb'_append_eq_of_le (by decide), getLsbD_append, extractLsb'_append_eq_of_le (by decide),
    extractLsb'_append_eq_right⟩

open BitVec in
/-- A BX word with H1 = 1 (R122): of the bits [9:6] the decoder branches on, the lowest is free. -/
theorem fields_bxH1 (op : BitVec 9) (x : BitVec 7) :
    (op ++ x).extractLsb' 11 5 = op.extractLsb' 4 5 ∧ (op ++ x).getLsbD 10 = op.getLsbD 3 ∧
      (op ++ x).extractLsb' 6 4 = op.extractLsb' 0 3 ++ x.extractLsb' 6 1 ∧ (op ++ x).extractLsb' 0 7 = x := by
  refine ⟨extractLsb'_append_eq_of_le (by decide), getLsbD_append, ?_, extractLsb'_append_eq_right⟩
  rw [← extractLsb'_append_extractLsb'_eq_extractLsb' (start₁ := 6) (start₂ := 7) (len₁ := 1) (len₂ := 3) rfl,
    extractLsb'_append_eq_of_le (by decide), extractLsb'_append_eq_of_add_le (by decide)]

open BitVec in
/-- A BX word with H1 = 0 (R122, R194): of the bits [9:6] the decoder branches on, the lowest is the highest of the four bits
above the low three. -/
theorem fields_bxLow (op : BitVec 9) (x : BitVec 4) (low : BitVec 3) :
    (op ++ x ++ low).extractLsb' 11 5 = op.extractLsb' 4 5 ∧ (op ++ x ++ low).getLsbD 10 = op.getLsbD 3 ∧
      (op ++ x ++ low).extractLsb' 6 4 = op.extractLsb' 0 3 ++ x.extractLsb' 3 1 ∧
      (op ++ x ++ low).extractLsb' 3 4 = x ∧ fieldLow (op ++ x ++ low) = low := by
  refine ⟨by simp (disch := decide) only [extractLsb'_append_eq_of_le], by simp only [getLsbD_append]; rfl, ?_,
    (extractLsb'_append_eq_of_le (by decide)).trans extractLsb'_append_eq_right, extractLsb'_append_eq_right⟩
  rw [extractLsb'_append_eq_of_le (by decide),
    ← extractLsb'_append_extractLsb'_eq_extractLsb' (start₁ := 3) (start₂ := 4) (len₁ := 1) (len₂ := 3) rfl,
    extractLsb'_append_eq_of_le (by decide), extractLsb'_append_eq_of_add_le (by decide)]

open BitVec in
/-- An ARM word of B, BL or SWI (R288, R289): the condition, the bits that tell the three apart, and the field below. -/
theorem fields_arm_off24 (cond op : BitVec 4) (off : BitVec 24) :
    (cond ++ op ++ off).extractLsb' 28 4 = cond ∧ (cond ++ op ++ off).extractLsb' 24 4 = op ∧
      (cond ++ op ++ off).extractLsb' 0 24 = off :=
  ⟨(extractLsb'_append_eq_of_le (by decide)).trans extractLsb'_append_eq_left,
    (extractLsb'_append_eq_of_le (by decide)).trans extractLsb'_append_eq_right, extractLsb'_append_eq_right⟩

open BitVec in
/-- An ARM word of a return or of MOV PC, R14 (R284 to R287): the condition, and the bits below it, whole and in part. -/
theorem fields_arm_fixed (cond : BitVec 4) (rest : BitVec 28) :
    (cond ++ rest).extractLsb' 28 4 = cond ∧ (cond ++ rest).extractLsb' 4 24 = rest.extractLsb' 4 24 ∧
      (cond ++ rest).extractLsb' 0 28 = rest :=
  ⟨extractLsb'_append_eq_left, extractLsb'_append_eq_of_add_le (by decide), extractLsb'_append_eq_right⟩

end Sys2Proof
end

section
/-! PROOFS. The decoder on what the encoder makes, format by format (R121, R281). -/

namespace Sys2Proof

/-- The words of format 1 (R101). -/
theorem decodeThumb_shiftImm (rd rs : BitVec 3) (off : BitVec 5) :
    decodeThumb (0b00000#5 ++ off ++ rs ++ rd) = .lslImm rd rs off ∧
    decodeThumb (0b00001#5 ++ off ++ rs ++ rd) = .lsrImm rd rs off ∧
    decodeThumb (0b00010#5 ++ off ++ rs ++ rd) = .asrImm rd rs off := by
  simp only [decodeThumb, fields_off5_mid_low, and_self]

/-- The words of format 2 (R102). -/
theorem decodeThumb_addSub (rd rs x : BitVec 3) :
    decodeThumb (0b0001100#7 ++ x ++ rs ++ rd) = .addReg rd rs x ∧
    decodeThumb (0b0001101#7 ++ x ++ rs ++ rd) = .subReg rd rs x ∧
    decodeThumb (0b0001110#7 ++ x ++ rs ++ rd) = .addImm3 rd rs x ∧
    decodeThumb (0b0001111#7 ++ x ++ rs ++ rd) = .subImm3 rd rs x := by
  simp only [decodeThumb, decodeAddSub, fields_high_mid_low, fields_addSub, BitVec.reduceExtractLsb', true_and]
  rfl

/-- The words of format 3 (R103). -/
theorem decodeThumb_imm8 (rd : BitVec 3) (imm : BitVec 8) :
    decodeThumb (0b00100#5 ++ rd ++ imm) = .movImm8 rd imm ∧ decodeThumb (0b00101#5 ++ rd ++ imm) = .cmpImm8 rd imm ∧
    decodeThumb (0b00110#5 ++ rd ++ imm) = .addImm8 rd imm ∧ decodeThumb (0b00111#5 ++ rd ++ imm) = .subImm8 rd imm := by
  simp only [decodeThumb, fields_reg8_imm8, and_self]

/-- The words of format 4 (R104). -/
theorem decodeThumb_alu (rd rs : BitVec 3) :
    decodeThumb (0b0100000000#10 ++ rs ++ rd) = .andReg rd rs ∧ decodeThumb (0b0100000001#10 ++ rs ++ rd) = .eorReg rd rs ∧
    decodeThumb (0b0100000010#10 ++ rs ++ rd) = .lslReg rd rs ∧ decodeThumb (0b0100000011#10 ++ rs ++ rd) = .lsrReg rd rs ∧
    decodeThumb (0b0100000100#10 ++ rs ++ rd) = .asrReg rd rs ∧ decodeThumb (0b0100000101#10 ++ rs ++ rd) = .adcReg rd rs ∧
    decodeThumb (0b0100000110#10 ++ rs ++ rd) = .sbcReg rd rs ∧ decodeThumb (0b0100000111#10 ++ rs ++ rd) = .rorReg rd rs ∧
    decodeThumb (0b0100001000#10 ++ rs ++ rd) = .tstReg rd rs ∧ decodeThumb (0b0100001001#10 ++ rs ++ rd) = .negReg rd rs ∧
    decodeThumb (0b0100001010#10 ++ rs ++ rd) = .cmpReg rd rs ∧ decodeThumb (0b0100001011#10 ++ rs ++ rd) = .cmnReg rd rs ∧
    decodeThumb (0b0100001100#10 ++ rs ++ rd) = .orrReg rd rs ∧ decodeThumb (0b0100001101#10 ++ rs ++ rd) = .mulReg rd rs ∧
    decodeThumb (0b0100001110#10 ++ rs ++ rd) = .bicReg rd rs ∧
    decodeThumb (0b0100001111#10 ++ rs ++ rd) = .mvnReg rd rs := by
  simp only [decodeThumb, decodeAlu, fields_mid_low, BitVec.reduceExtractLsb', BitVec.reduceGetLsb, Bool.false_eq_true,
    if_false, true_and]
  rfl

/-- The words of format 5 but BX (R105). -/
theorem decodeThumb_hiReg (d s : BitVec 3) :
    decodeThumb (0b0100010001#10 ++ s ++ d) = .addRdHs d s ∧ decodeThumb (0b0100010010#10 ++ s ++ d) = .addHdRs d s ∧
    decodeThumb (0b0100010011#10 ++ s ++ d) = .addHdHs d s ∧ decodeThumb (0b0100010101#10 ++ s ++ d) = .cmpRdHs d s ∧
    decodeThumb (0b0100010110#10 ++ s ++ d) = .cmpHdRs d s ∧ decodeThumb (0b0100010111#10 ++ s ++ d) = .cmpHdHs d s ∧
    decodeThumb (0b0100011001#10 ++ s ++ d) = .movRdHs d s ∧ decodeThumb (0b0100011010#10 ++ s ++ d) = .movHdRs d s ∧
    decodeThumb (0b0100011011#10 ++ s ++ d) = .movHdHs d s := by
  simp only [decodeThumb, decodeHiReg, fields_mid_low, BitVec.reduceExtractLsb', BitVec.reduceGetLsb, if_true, and_self]

/-- The words of BX with low bits 000 (R194). -/
theorem decodeThumb_bx (r : BitVec 3) :
    decodeThumb (0b0100011100#10 ++ r ++ 0b000#3) = .bxRs r ∧ decodeThumb (0b0100011101#10 ++ r ++ 0b000#3) = .bxHs r := by
  simp only [decodeThumb, decodeHiReg, decodeBx, fields_mid_low, BitVec.reduceExtractLsb', BitVec.reduceGetLsb,
    Bool.false_eq_true, if_true, if_false, and_self]

/-- The words of format 5 with H1 = H2 = 0 (R122). -/
theorem decodeThumb_loLo (x : BitVec 6) :
    decodeThumb (0b0100010000#10 ++ x) = .undefAddLoLo x ∧ decodeThumb (0b0100010100#10 ++ x) = .undefCmpLoLo x ∧
    decodeThumb (0b0100011000#10 ++ x) = .undefMovLoLo x := by
  simp only [decodeThumb, decodeHiReg, fields_loLo, BitVec.reduceExtractLsb', BitVec.reduceGetLsb, if_true, and_self]

/-- One free bit is 0 or 1. -/
theorem one_bit_cases (b : BitVec 1) : b = 0#1 ∨ b = 1#1 := by
  revert b
  decide

/-- The words of BX with H1 = 1 (R122), H2 being 0 or 1. -/
theorem decodeThumb_bxH1 (x : BitVec 7) : decodeThumb (0b010001111#9 ++ x) = .undefBxH1 x := by
  simp only [decodeThumb, decodeHiReg, fields_bxH1, BitVec.reduceExtractLsb', BitVec.reduceGetLsb, if_true]
  obtain h | h := one_bit_cases (x.extractLsb' 6 1)
  · rw [h]; rfl
  · rw [h]; rfl

/-- A word of BX with H1 = 0 (R194) goes to the decoder of BX, H2 being 0 or 1. -/
theorem decodeThumb_eq_decodeBx (x : BitVec 4) (low : BitVec 3) :
    decodeThumb (0b010001110#9 ++ x ++ low) = decodeBx (0b010001110#9 ++ x ++ low) := by
  simp only [decodeThumb, decodeHiReg, fields_bxLow, BitVec.reduceExtractLsb', BitVec.reduceGetLsb, if_true]
  obtain h | h := one_bit_cases (x.extractLsb' 3 1)
  · rw [h]; rfl
  · rw [h]; rfl

/-- The words of BX with low bits that the spec leaves out (R122). -/
theorem decodeThumb_bxLowBits (x : BitVec 4) :
    decodeThumb (0b010001110#9 ++ x ++ 0b001#3) = .bxLowBits1 x ∧ decodeThumb (0b010001110#9 ++ x ++ 0b010#3) = .bxLowBits2 x ∧
    decodeThumb (0b010001110#9 ++ x ++ 0b011#3) = .bxLowBits3 x ∧ decodeThumb (0b010001110#9 ++ x ++ 0b100#3) = .bxLowBits4 x ∧
    decodeThumb (0b010001110#9 ++ x ++ 0b101#3) = .bxLowBits5 x ∧ decodeThumb (0b010001110#9 ++ x ++ 0b110#3) = .bxLowBits6 x ∧
    decodeThumb (0b010001110#9 ++ x ++ 0b111#3) = .bxLowBits7 x := by
  simp only [decodeThumb_eq_decodeBx, decodeBx, fields_bxLow, true_and]
  rfl

/-- The words of format 14 (R114). -/
theorem decodeThumb_pushPop (rlist : BitVec 8) :
    decodeThumb (0b10110100#8 ++ rlist) = .push rlist ∧ decodeThumb (0b10110101#8 ++ rlist) = .pushLr rlist ∧
    decodeThumb (0b10111100#8 ++ rlist) = .pop rlist ∧ decodeThumb (0b10111101#8 ++ rlist) = .popPc rlist := by
  simp only [decodeThumb, decodeMisc, fields_high8_imm8, BitVec.reduceExtractLsb', and_self]

/-- The unallocated words beginning with 1011 (R123); the decoder has the last as its default. -/
theorem decodeThumb_unallocated (x : BitVec 8) :
    decodeThumb (0b10110001#8 ++ x) = .unallocB1 x ∧ decodeThumb (0b10110010#8 ++ x) = .unallocB2 x ∧
    decodeThumb (0b10110011#8 ++ x) = .unallocB3 x ∧ decodeThumb (0b10110110#8 ++ x) = .unallocB6 x ∧
    decodeThumb (0b10110111#8 ++ x) = .unallocB7 x ∧ decodeThumb (0b10111000#8 ++ x) = .unallocB8 x ∧
    decodeThumb (0b10111001#8 ++ x) = .unallocB9 x ∧ decodeThumb (0b10111010#8 ++ x) = .unallocBA x ∧
    decodeThumb (0b10111011#8 ++ x) = .unallocBB x ∧ decodeThumb (0b10111110#8 ++ x) = .unallocBE x ∧
    decodeThumb (0b10111111#8 ++ x) = .unallocBF x := by
  simp only [decodeThumb, decodeMisc, fields_high8_imm8, BitVec.reduceExtractLsb', true_and]
  rfl

/-- The words of format 15 (R115). -/
theorem decodeThumb_multiple (rb : BitVec 3) (rlist : BitVec 8) :
    decodeThumb (0b11000#5 ++ rb ++ rlist) = .stmia rb rlist ∧ decodeThumb (0b11001#5 ++ rb ++ rlist) = .ldmia rb rlist := by
  simp only [decodeThumb, fields_reg8_imm8, and_self]

/-- The words beginning with 1101 that are no branch (R117, R271); the decoder has SWI as its default. -/
theorem decodeThumb_undefCond14_swi (x : BitVec 8) :
    decodeThumb (0b11011110#8 ++ x) = .undefCond14 x ∧ decodeThumb (0b11011111#8 ++ x) = .swi x := by
  simp only [decodeThumb, decodeCond, fields_high8_imm8, BitVec.reduceExtractLsb', true_and]
  rfl

/-- The words of format 18 (R118), and the unallocated ones beside them (R123). -/
theorem decodeThumb_b_unallocE8 (off : BitVec 11) :
    decodeThumb (0b11100#5 ++ off) = .b off ∧ decodeThumb (0b11101#5 ++ off) = .unallocE8 off := by
  simp only [decodeThumb, fields_off11, and_self]

/-- The ARM words with one operand beside the condition fixed in their row (R284 to R287). -/
theorem decodeArm_fixed {cond : BitVec 4} (hc : condAdmitted cond = true) :
    decodeArm (cond ++ 0x1B0F00E#28) = .ok (.armMovsPcLr cond) ∧ decodeArm (cond ++ 0x25EF004#28) = .ok (.armSubsPcLr4 cond) ∧
    decodeArm (cond ++ 0x25EF008#28) = .ok (.armSubsPcLr8 cond) ∧ decodeArm (cond ++ 0x1A0F00E#28) = .ok (.armMovPcLr cond) := by
  simp [decodeArm, fields_arm_fixed, hc]

open BitVec in
/-- The ARM word of BX (R283). -/
theorem decodeArm_bx {cond : BitVec 4} (hc : condAdmitted cond = true) (rn : BitVec 4) :
    decodeArm (cond ++ 0x12FFF1#24 ++ rn) = .ok (.armBx cond rn) := by
  have hcond : (cond ++ 0x12FFF1#24 ++ rn).extractLsb' 28 4 = cond :=
    (extractLsb'_append_eq_of_le (by decide)).trans extractLsb'_append_eq_left
  have hop : (cond ++ 0x12FFF1#24 ++ rn).extractLsb' 4 24 = 0x12FFF1#24 :=
    (extractLsb'_append_eq_of_le (by decide)).trans extractLsb'_append_eq_right
  have hrn : (cond ++ 0x12FFF1#24 ++ rn).extractLsb' 0 4 = rn := extractLsb'_append_eq_right
  simp only [decodeArm, hcond, hop, hrn, hc, if_true]

/-- A field of a field. -/
theorem extractLsb'_extractLsb'_of_add_le {w start len i n : Nat} {x : BitVec w} (h : i + n ≤ len) :
    (x.extractLsb' start len).extractLsb' i n = x.extractLsb' (start + i) n := by
  apply BitVec.eq_of_getLsbD_eq
  intro j hj
  simp only [BitVec.getLsbD_extractLsb', hj, show i + j < len by omega, decide_true, Bool.true_and, Nat.add_assoc]

open BitVec in
/-- A word whose bits [27:24] are not those of a fixed row is not of that row: BX has 24 fixed bits, the others 28. -/
theorem decodeArm_of_nibble {w : Word} (hc : condAdmitted (w.extractLsb' 28 4) = true)
    (h1 : w.extractLsb' 24 4 ≠ 0x1#4) (h2 : w.extractLsb' 24 4 ≠ 0x2#4) :
    decodeArm w =
      if w.extractLsb' 24 4 = 0xA#4 then .ok (.armB (w.extractLsb' 28 4) (w.extractLsb' 0 24))
      else if w.extractLsb' 24 4 = 0xB#4 then .ok (.armBl (w.extractLsb' 28 4) (w.extractLsb' 0 24))
      else if w.extractLsb' 24 4 = 0xF#4 then .ok (.armSwi (w.extractLsb' 28 4) (w.extractLsb' 0 24))
      else .error (.armOutsideSubset w) := by
  have ne24 {n : BitVec 4} {v : BitVec 24} (hn : w.extractLsb' 24 4 ≠ n) (hv : v.extractLsb' 20 4 = n) :
      w.extractLsb' 4 24 ≠ v := fun h => hn (by rw [← hv, ← h, extractLsb'_extractLsb'_of_add_le (by decide)])
  have ne28 {n : BitVec 4} {v : BitVec 28} (hn : w.extractLsb' 24 4 ≠ n) (hv : v.extractLsb' 24 4 = n) :
      w.extractLsb' 0 28 ≠ v := fun h => hn (by rw [← hv, ← h, extractLsb'_extractLsb'_of_add_le (by decide)])
  simp only [decodeArm, hc, if_true]
  rw [if_neg (ne24 h1 rfl), if_neg (ne28 h1 rfl), if_neg (ne28 h2 rfl), if_neg (ne28 h2 rfl), if_neg (ne28 h1 rfl)]

/-- The ARM words of B, BL and SWI (R288, R289). -/
theorem decodeArm_off24 {cond : BitVec 4} (hc : condAdmitted cond = true) (off : BitVec 24) :
    decodeArm (cond ++ 0xA#4 ++ off) = .ok (.armB cond off) ∧ decodeArm (cond ++ 0xB#4 ++ off) = .ok (.armBl cond off) ∧
    decodeArm (cond ++ 0xF#4 ++ off) = .ok (.armSwi cond off) := by
  have row (op : BitVec 4) (h1 : op ≠ 0x1#4) (h2 : op ≠ 0x2#4) := by
    have h := decodeArm_of_nibble (w := cond ++ op ++ off)
    simp only [fields_arm_off24] at h
    exact h hc h1 h2
  exact ⟨row 0xA#4 (by decide) (by decide), row 0xB#4 (by decide) (by decide), row 0xF#4 (by decide) (by decide)⟩

end Sys2Proof
end

section
/-! PROOFS. Encoding and decoding undo each other (R121, R281, R282). -/

namespace Sys2Proof

/-- Settles O2: format by format, each word by the lemma about its format; the ARM rows with their condition admitted. -/
theorem decodeOfEncode : Obligations.DecodeOfEncode := by
  unfold Obligations.DecodeOfEncode
  intro i hwf
  cases i with
  | lslImm | lsrImm | asrImm => simp only [encode, decodeCode, decodeThumb_shiftImm]
  | addReg | addImm3 | subReg | subImm3 => simp only [encode, decodeCode, decodeThumb_addSub]
  | movImm8 | cmpImm8 | addImm8 | subImm8 => simp only [encode, decodeCode, decodeThumb_imm8]
  | andReg | eorReg | lslReg | lsrReg | asrReg | adcReg | sbcReg | rorReg | tstReg | negReg | cmpReg | cmnReg | orrReg |
    mulReg | bicReg | mvnReg => simp only [encode, decodeCode, decodeThumb_alu]
  | addRdHs | addHdRs | addHdHs | cmpRdHs | cmpHdRs | cmpHdHs | movRdHs | movHdRs | movHdHs =>
    simp only [encode, decodeCode, decodeThumb_hiReg]
  | bxRs | bxHs => simp only [encode, decodeCode, decodeThumb_bx]
  | ldrPc | strSp | ldrSp => simp only [encode, decodeCode, decodeThumb_reg8_imm8]
  | strReg | strbReg | ldrReg | ldrbReg | strhReg | ldrhReg | ldsbReg | ldshReg =>
    simp only [encode, decodeCode, decodeThumb_high_mid_low]
  | strImm | ldrImm | strbImm | ldrbImm | strhImm | ldrhImm =>
    simp only [encode, decodeCode, decodeThumb_off5_mid_low]
  | addPc | addSp => simp only [encode, decodeCode, decodeThumb_loadAddress]
  | addSpPos | addSpNeg => simp only [encode, decodeCode, decodeThumb_addOffsetSp]
  | push | pushLr | pop | popPc => simp only [encode, decodeCode, decodeThumb_pushPop]
  | stmia | ldmia => simp only [encode, decodeCode, decodeThumb_multiple]
  | beq | bne | bcs | bcc | bmi | bpl | bvs | bvc => simp only [encode, decodeCode, decodeThumb_singleFlagBranch]
  | bhi | bls | bge | blt | bgt | ble => simp only [encode, decodeCode, decodeThumb_severalFlagBranch]
  | swi | undefCond14 => simp only [encode, decodeCode, decodeThumb_undefCond14_swi]
  | b | unallocE8 => simp only [encode, decodeCode, decodeThumb_b_unallocE8]
  | blHigh => simp only [encode, decodeCode, decodeThumb_blHigh]
  | blLow => simp only [encode, decodeCode, decodeThumb_blLow]
  | undefAddLoLo | undefCmpLoLo | undefMovLoLo => simp only [encode, decodeCode, decodeThumb_loLo]
  | undefBxH1 => simp only [encode, decodeCode, decodeThumb_bxH1]
  | bxLowBits1 | bxLowBits2 | bxLowBits3 | bxLowBits4 | bxLowBits5 | bxLowBits6 | bxLowBits7 =>
    simp only [encode, decodeCode, decodeThumb_bxLowBits]
  | unallocB1 | unallocB2 | unallocB3 | unallocB6 | unallocB7 | unallocB8 | unallocB9 | unallocBA | unallocBB | unallocBE |
    unallocBF => simp only [encode, decodeCode, decodeThumb_unallocated]
  | armBx => exact decodeArm_bx hwf _
  | armMovsPcLr | armSubsPcLr4 | armSubsPcLr8 | armMovPcLr => simp only [encode, decodeCode, decodeArm_fixed hwf]
  | armB | armBl | armSwi => simp only [encode, decodeCode, decodeArm_off24 hwf]

/-! ### A halfword put together from its fields -/

open BitVec in
/-- Formats 1, 9 and 10. -/
theorem join_off5_mid_low (w : Half) :
    w.extractLsb' 11 5 ++ fieldOff5 w ++ fieldMid w ++ fieldLow w = w := by
  simp only [fieldOff5, fieldMid, fieldLow]
  repeat rw [extractLsb'_append_extractLsb'_eq_extractLsb' (by decide)]
  exact extractLsb'_eq_self

open BitVec in
/-- Format 2. -/
theorem join_addSub (w : Half) :
    w.extractLsb' 11 5 ++ w.extractLsb' 9 2 ++ fieldHigh w ++ fieldMid w ++ fieldLow w = w := by
  simp only [fieldHigh, fieldMid, fieldLow]
  repeat rw [extractLsb'_append_extractLsb'_eq_extractLsb' (by decide)]
  exact extractLsb'_eq_self

open BitVec in
/-- Formats 3, 6, 11, 12 and 15. -/
theorem join_reg8_imm8 (w : Half) :
    w.extractLsb' 11 5 ++ fieldReg8 w ++ fieldImm8 w = w := by
  simp only [fieldReg8, fieldImm8]
  repeat rw [extractLsb'_append_extractLsb'_eq_extractLsb' (by decide)]
  exact extractLsb'_eq_self

open BitVec in
/-- Formats 4 and 5. -/
theorem join_mid_low (w : Half) :
    w.extractLsb' 10 6 ++ w.extractLsb' 6 4 ++ fieldMid w ++ fieldLow w = w := by
  simp only [fieldMid, fieldLow]
  repeat rw [extractLsb'_append_extractLsb'_eq_extractLsb' (by decide)]
  exact extractLsb'_eq_self

open BitVec in
/-- Format 5 with H1 = H2 = 0. -/
theorem join_loLo (w : Half) :
    w.extractLsb' 10 6 ++ w.extractLsb' 6 4 ++ w.extractLsb' 0 6 = w := by
  repeat rw [extractLsb'_append_extractLsb'_eq_extractLsb' (by decide)]
  exact extractLsb'_eq_self

open BitVec in
/-- BX with H1 = 1. -/
theorem join_bxH1 (w : Half) :
    w.extractLsb' 10 6 ++ w.extractLsb' 7 3 ++ w.extractLsb' 0 7 = w := by
  repeat rw [extractLsb'_append_extractLsb'_eq_extractLsb' (by decide)]
  exact extractLsb'_eq_self

open BitVec in
/-- BX with H1 = 0. -/
theorem join_bxLow (w : Half) :
    w.extractLsb' 10 6 ++ w.extractLsb' 7 3 ++ w.extractLsb' 3 4 ++ fieldLow w = w := by
  simp only [fieldLow]
  repeat rw [extractLsb'_append_extractLsb'_eq_extractLsb' (by decide)]
  exact extractLsb'_eq_self

open BitVec in
/-- BX with H1 = 0, H2 and the register apart. -/
theorem join_bx (w : Half) :
    w.extractLsb' 10 6 ++ w.extractLsb' 7 3 ++ w.extractLsb' 6 1 ++ fieldMid w ++ fieldLow w = w := by
  simp only [fieldMid, fieldLow]
  repeat rw [extractLsb'_append_extractLsb'_eq_extractLsb' (by decide)]
  exact extractLsb'_eq_self

open BitVec in
/-- Formats 7 and 8. -/
theorem join_regOffset (w : Half) :
    w.extractLsb' 12 4 ++ w.extractLsb' 9 3 ++ fieldHigh w ++ fieldMid w ++ fieldLow w = w := by
  simp only [fieldHigh, fieldMid, fieldLow]
  repeat rw [extractLsb'_append_extractLsb'_eq_extractLsb' (by decide)]
  exact extractLsb'_eq_self

open BitVec in
/-- Formats 14, 16 and 17. -/
theorem join_high8_imm8 (w : Half) :
    w.extractLsb' 12 4 ++ w.extractLsb' 8 4 ++ fieldImm8 w = w := by
  simp only [fieldImm8]
  repeat rw [extractLsb'_append_extractLsb'_eq_extractLsb' (by decide)]
  exact extractLsb'_eq_self

open BitVec in
/-- Format 13. -/
theorem join_sign_imm7 (w : Half) :
    w.extractLsb' 12 4 ++ w.extractLsb' 8 4 ++ w.extractLsb' 7 1 ++ w.extractLsb' 0 7 = w := by
  repeat rw [extractLsb'_append_extractLsb'_eq_extractLsb' (by decide)]
  exact extractLsb'_eq_self

open BitVec in
/-- Formats 18 and 19. -/
theorem join_off11 (w : Half) :
    w.extractLsb' 11 5 ++ fieldOff11 w = w := by
  simp only [fieldOff11]
  repeat rw [extractLsb'_append_extractLsb'_eq_extractLsb' (by decide)]
  exact extractLsb'_eq_self

/-- A field of one bit. -/
theorem extractLsb'_one (w : Half) (i : Nat) : w.extractLsb' i 1 = BitVec.ofBool (w.getLsbD i) := by
  apply BitVec.eq_of_getLsbD_eq
  intro j hj
  obtain rfl : j = 0 := by omega
  simp

/-! ### The encoder on what each decoder makes

In each case the halfword is put together from its fields, those that the decoder branches on being the row's own. -/

theorem encode_decodeAddSub {w : Half} (h : w.extractLsb' 11 5 = 0b00011#5) : encode (decodeAddSub w) = .half w := by
  have join := join_addSub w
  rw [h] at join
  unfold decodeAddSub
  generalize w.extractLsb' 9 2 = op at join
  split
  case h_4 =>
    obtain rfl : op = 0b11#2 := by simp only [imp_false] at *; bv_omega
    exact congrArg Code.half join
  all_goals exact congrArg Code.half join

theorem encode_decodeAlu {w : Half} (h : w.extractLsb' 10 6 = 0b010000#6) : encode (decodeAlu w) = .half w := by
  have join := join_mid_low w
  rw [h] at join
  unfold decodeAlu
  generalize w.extractLsb' 6 4 = op at join
  split
  case h_16 =>
    obtain rfl : op = 0b1111#4 := by simp only [imp_false] at *; bv_omega
    exact congrArg Code.half join
  all_goals exact congrArg Code.half join

theorem encode_decodeBx {w : Half} (h : w.extractLsb' 10 6 = 0b010001#6) (h7 : w.extractLsb' 7 3 = 0b110#3) :
    encode (decodeBx w) = .half w := by
  have joinReg := join_bx w
  have joinLow := join_bxLow w
  rw [h, h7, extractLsb'_one] at joinReg
  rw [h, h7] at joinLow
  unfold decodeBx
  generalize fieldLow w = low at joinReg joinLow
  split
  case h_1 =>
    split
    next h6 => rw [h6] at joinReg; exact congrArg Code.half joinReg
    next h6 => rw [Bool.eq_false_of_not_eq_true h6] at joinReg; exact congrArg Code.half joinReg
  case h_8 =>
    obtain rfl : low = 0b111#3 := by simp only [imp_false] at *; bv_omega
    exact congrArg Code.half joinLow
  all_goals exact congrArg Code.half joinLow

theorem encode_decodeHiReg {w : Half} (h : w.extractLsb' 10 6 = 0b010001#6) : encode (decodeHiReg w) = .half w := by
  have join := join_mid_low w
  have joinLoLo := join_loLo w
  have joinH1 := join_bxH1 w
  have high : w.extractLsb' 7 3 = (w.extractLsb' 6 4).extractLsb' 1 3 := by
    rw [extractLsb'_extractLsb'_of_add_le (by decide)]
  have bx := encode_decodeBx h
  rw [h] at join joinLoLo joinH1
  rw [high] at joinH1 bx
  unfold decodeHiReg
  generalize w.extractLsb' 6 4 = op at join joinLoLo joinH1 bx
  split
  case h_1 | h_5 | h_9 => exact congrArg Code.half joinLoLo
  case h_13 | h_14 => exact bx rfl
  case h_15 =>
    obtain rfl | rfl : op = 0b1110#4 ∨ op = 0b1111#4 := by simp only [imp_false] at *; bv_omega
    · exact congrArg Code.half joinH1
    · exact congrArg Code.half joinH1
  all_goals exact congrArg Code.half join

theorem encode_decodeRegOffset {w : Half} (h : w.extractLsb' 12 4 = 0b0101#4) :
    encode (decodeRegOffset w) = .half w := by
  have join := join_regOffset w
  rw [h] at join
  unfold decodeRegOffset
  generalize w.extractLsb' 9 3 = op at join
  split
  case h_8 =>
    obtain rfl : op = 0b111#3 := by simp only [imp_false] at *; bv_omega
    exact congrArg Code.half join
  all_goals exact congrArg Code.half join

theorem encode_decodeMisc {w : Half} (h : w.extractLsb' 12 4 = 0b1011#4) : encode (decodeMisc w) = .half w := by
  have join := join_high8_imm8 w
  have joinSign := join_sign_imm7 w
  rw [h] at join
  rw [h, extractLsb'_one] at joinSign
  unfold decodeMisc
  generalize w.extractLsb' 8 4 = op at join joinSign
  split
  case h_1 =>
    split
    next h7 => rw [h7] at joinSign; exact congrArg Code.half joinSign
    next h7 => rw [Bool.eq_false_of_not_eq_true h7] at joinSign; exact congrArg Code.half joinSign
  case h_16 =>
    obtain rfl : op = 0xF#4 := by simp only [imp_false] at *; bv_omega
    exact congrArg Code.half join
  all_goals exact congrArg Code.half join

theorem encode_decodeCond {w : Half} (h : w.extractLsb' 12 4 = 0b1101#4) : encode (decodeCond w) = .half w := by
  have join := join_high8_imm8 w
  rw [h] at join
  unfold decodeCond
  generalize w.extractLsb' 8 4 = op at join
  split
  case h_16 =>
    obtain rfl : op = 0xF#4 := by simp only [imp_false] at *; bv_omega
    exact congrArg Code.half join
  all_goals exact congrArg Code.half join

open BitVec in
theorem encode_decodeThumb (w : Half) : encode (decodeThumb w) = .half w := by
  have joinOff5 := join_off5_mid_low w
  have joinReg8 := join_reg8_imm8 w
  have joinOff11 := join_off11 w
  have top4 : w.extractLsb' 12 4 = (w.extractLsb' 11 5).extractLsb' 1 4 := by
    rw [extractLsb'_extractLsb'_of_add_le (by decide)]
  have top6 : w.extractLsb' 10 6 = w.extractLsb' 11 5 ++ BitVec.ofBool (w.getLsbD 10) := by
    rw [← extractLsb'_one, extractLsb'_append_extractLsb'_eq_extractLsb' (by decide)]
  have addSub := encode_decodeAddSub (w := w)
  unfold decodeThumb
  generalize w.extractLsb' 11 5 = op at *
  split
  case h_1 | h_2 | h_3 | h_13 | h_14 | h_15 | h_16 | h_17 | h_18 => exact congrArg Code.half joinOff5
  case h_4 => exact addSub rfl
  case h_9 =>
    split
    next h10 => exact encode_decodeHiReg (by rw [top6, h10]; rfl)
    next h10 => exact encode_decodeAlu (by rw [top6, Bool.eq_false_of_not_eq_true h10]; rfl)
  case h_11 | h_12 => exact encode_decodeRegOffset top4
  case h_23 | h_24 => exact encode_decodeMisc top4
  case h_27 | h_28 => exact encode_decodeCond top4
  case h_32 =>
    obtain rfl : op = 0b11111#5 := by simp only [imp_false] at *; bv_omega
    exact congrArg Code.half joinOff11
  case h_29 | h_30 | h_31 => exact congrArg Code.half joinOff11
  all_goals exact congrArg Code.half joinReg8

open BitVec in
theorem encode_of_decodeArm {w : Word} {i : Instr} (h : decodeArm w = .ok i) : encode i = .word w := by
  have joinBx : w.extractLsb' 28 4 ++ w.extractLsb' 4 24 ++ w.extractLsb' 0 4 = w := by
    repeat rw [extractLsb'_append_extractLsb'_eq_extractLsb' (by decide)]
    exact extractLsb'_eq_self
  have joinFixed : w.extractLsb' 28 4 ++ w.extractLsb' 0 28 = w := by
    rw [extractLsb'_append_extractLsb'_eq_extractLsb' (by decide), extractLsb'_eq_self]
  have joinOff24 : w.extractLsb' 28 4 ++ w.extractLsb' 24 4 ++ w.extractLsb' 0 24 = w := by
    repeat rw [extractLsb'_append_extractLsb'_eq_extractLsb' (by decide)]
    exact extractLsb'_eq_self
  unfold decodeArm at h
  simp only at h
  repeat' split at h
  all_goals cases h
  all_goals rename_i hbits
  case isTrue.isTrue.refl => rw [hbits] at joinBx; exact congrArg Code.word joinBx
  case isTrue.isFalse.isFalse.isFalse.isFalse.isFalse.isTrue.refl |
    isTrue.isFalse.isFalse.isFalse.isFalse.isFalse.isFalse.isTrue.refl |
    isTrue.isFalse.isFalse.isFalse.isFalse.isFalse.isFalse.isFalse.isTrue.refl =>
    rw [hbits] at joinOff24; exact congrArg Code.word joinOff24
  all_goals rw [hbits] at joinFixed; exact congrArg Code.word joinFixed

/-- Settles O3: the THUMB half is `encode_decodeThumb`, the ARM half `encode_of_decodeArm` beside `decodeArm_ok`. -/
theorem encodeOfDecode : Obligations.EncodeOfDecode := by
  unfold Obligations.EncodeOfDecode
  refine ⟨encode_decodeThumb, fun w i h => ?_⟩
  obtain ⟨isArm, wf⟩ := Machine.decodeArm_ok h
  exact ⟨encode_of_decodeArm h, wf, isArm⟩

/-! ### Which ARM words decode (R281, R282) -/

open BitVec in
/-- A mask and match on a field is an equation about the field. -/
theorem and_mask_eq_iff {n : Nat} (w : BitVec n) (start len : Nat) (v : BitVec len) (h : start + len ≤ n) :
    w &&& ((allOnes len).setWidth n <<< start) = v.setWidth n <<< start ↔ w.extractLsb' start len = v := by
  constructor
  · intro hw
    apply eq_of_getLsbD_eq
    intro j hj
    have := congrArg (fun x => x.getLsbD (start + j)) hw
    simpa [hj, show start + j < n by omega] using this
  · rintro rfl
    apply eq_of_getLsbD_eq
    intro j hj
    by_cases hs : j < start
    · simp [hs]
    · by_cases hl : j - start < len
      · simp [hs, hl, show start + (j - start) = j by omega, hj]
      · simp [hs, hl]

theorem decodes_iff (w : Word) : (∃ i, decodeArm w = .ok i) ↔ condAdmitted (w.extractLsb' 28 4) = true ∧
    (w.extractLsb' 4 24 = 0x12FFF1#24 ∨ w.extractLsb' 0 28 = 0x1B0F00E#28 ∨ w.extractLsb' 0 28 = 0x25EF004#28 ∨
      w.extractLsb' 0 28 = 0x25EF008#28 ∨ w.extractLsb' 0 28 = 0x1A0F00E#28 ∨ w.extractLsb' 24 4 = 0xA#4 ∨
      w.extractLsb' 24 4 = 0xB#4 ∨ w.extractLsb' 24 4 = 0xF#4) := by
  unfold decodeArm
  simp only
  repeat' split
  all_goals simp_all

/-- Settles O4: what decodes is said by fields (`decodes_iff`), and each mask and match is on one field
(`and_mask_eq_iff`). -/
theorem armSubset : Obligations.ArmSubset := by
  unfold Obligations.ArmSubset
  intro w
  have mask := @and_mask_eq_iff 32 w
  have cond : condAdmitted (w.extractLsb' 28 4) = true ↔ w >>> 28 ≠ 0xF#32 := by
    have field : w >>> 28 = (w.extractLsb' 28 4).setWidth 32 := by
      apply BitVec.eq_of_toNat_eq
      have := w.isLt
      simp [Nat.shiftRight_eq_div_pow]
      omega
    rw [condAdmitted, bne_iff_ne, field, not_iff_not]
    exact ⟨fun h => by rw [h]; rfl, fun h => by bv_omega⟩
  rw [decodes_iff, cond, ← mask 4 24 _ (by decide), ← mask 0 28 _ (by decide), ← mask 0 28 _ (by decide),
    ← mask 0 28 _ (by decide), ← mask 0 28 _ (by decide), ← mask 24 4 _ (by decide), ← mask 24 4 _ (by decide),
    ← mask 24 4 _ (by decide)]
  rfl

/-! ### Example words (95_test_vectors.md section 1.1) -/

theorem decodeThumb_of_encode {w : Half} {i : Instr} (hwf : i.wf = true) (h : encode i = .half w) : decodeThumb w = i := by
  have hdec := decodeOfEncode i hwf
  rw [h] at hdec
  exact Except.ok.inj hdec

theorem decodeArm_of_encode {w : Word} {i : Instr} (hwf : i.wf = true) (h : encode i = .word w) : decodeArm w = .ok i := by
  have hdec := decodeOfEncode i hwf
  rwa [h] at hdec

/-- Settles O1: each word is the encoding of its instruction. -/
theorem exampleWordsDecode : Obligations.ExampleWordsDecode := by
  unfold Obligations.ExampleWordsDecode
  have thumb {w : Half} {i : Instr} := @decodeThumb_of_encode w i
  exact ⟨thumb rfl rfl, thumb rfl rfl, thumb rfl rfl, thumb rfl rfl, thumb rfl rfl, thumb rfl rfl, thumb rfl rfl,
    thumb rfl rfl, decodeArm_of_encode rfl rfl, decodeArm_of_encode rfl rfl⟩

end Sys2Proof
end

section
/-! PROOFS. Exception entry as the statements say it (R303, R305), and the instructions that take an exception (R270, R289,
R311). -/

namespace Sys2Proof.Machine

/-! ### Frames of a state -/

theorem State.SameSaved.spsrOf {s t : State} (h : s.SameSaved t) (m : Mode) : t.spsrOf m = s.spsrOf m := by
  cases m with
  | usr | sys => rfl
  | fiq => exact congrArg some h.fiq
  | irq => exact congrArg some h.irq
  | svc => exact congrArg some h.svc
  | abt => exact congrArg some h.abt
  | und => exact congrArg some h.und

theorem State.SameSaved.refl (s : State) : s.SameSaved s := ⟨rfl, rfl, rfl, rfl, rfl⟩

theorem State.SameMemory.refl (s : State) : s.SameMemory s := ⟨fun _ => rfl, rfl⟩

theorem State.SameInputs.refl (s : State) : s.SameInputs s := ⟨rfl, rfl, rfl, rfl, rfl, rfl, rfl⟩

theorem State.SameInputs.trans {s t u : State} (h : s.SameInputs t) (k : t.SameInputs u) : s.SameInputs u :=
  ⟨k.lines.trans h.lines, k.upcoming.trans h.upcoming, k.masters.trans h.masters, k.resetting.trans h.resetting,
    k.memoryMap.trans h.memoryMap, k.bigend.trans h.bigend, k.unallocTraps.trans h.unallocTraps⟩

theorem State.sameInputs_midBus (s : State) : s.SameInputs s.midBus := ⟨rfl, rfl, rfl, rfl, rfl, rfl, rfl⟩

theorem State.SameRegsBut.refl (s : State) (written : List PhysReg) : s.SameRegsBut s written := fun _ _ => rfl

theorem State.sameFlags_of_cpsr {s t : State} (h : t.cpsr = s.cpsr) : s.SameFlags t := by
  constructor <;> simp only [State.flagN, State.flagZ, State.flagC, State.flagV, h]

/-! ### Entry (R305) -/

variable (s : State) (k : Exc) (link saved : Word)

theorem State.sameFlags_enter : s.SameFlags (s.enter k link saved) := by
  constructor <;> simp [State.flagN, State.flagZ, State.flagC, State.flagV]

theorem State.reserved_enter : (s.enter k link saved).cpsr.extractLsb' 8 20 = s.cpsr.extractLsb' 8 20 := by
  apply BitVec.eq_of_getLsbD_eq
  intro j hj
  simp only [BitVec.getLsbD_extractLsb', State.enter_cpsr]
  rw [k.getLsbD_cpsrAfter s.cpsr (8 + j) (by omega)]

theorem State.enter_modeBits : (s.enter k link saved).modeBits = k.mode.bits := by simp [State.modeBits]

theorem State.enter_irqMasked : (s.enter k link saved).irqMasked = true := by simp [State.irqMasked]

theorem State.enter_fiqMasked : (s.enter k link saved).fiqMasked = (k.setsF || s.fiqMasked) := by simp [State.fiqMasked]

theorem State.sameInputs_enter : s.SameInputs (s.enter k link saved) := by constructor <;> simp

theorem State.sameMemory_enter : s.SameMemory (s.enter k link saved) :=
  ⟨State.readByte_congr (by simp), by simp⟩

theorem Exc.setsF_eq_decide : k.setsF = decide (k = .reset ∨ k = .fiq) := by
  cases k <;> rfl

/-- An exception taken after some work that kept the CPSR and the SPSRs: entered as from the state before the work, with the
registers the work wrote. -/
theorem State.entered_takeException {s u : State} {also : List PhysReg} (cpsr : u.cpsr = s.cpsr)
    (regs : s.SameRegsBut u also) (saved : s.SameSaved u) (draws : u.draws = s.draws) (k : Exc) (link : Word) :
    s.Entered (u.takeException k link) k link also where
  link := by rw [State.takeException, State.getPhys_enter, if_pos rfl]
  saved := by rw [State.takeException, State.spsrOf_enter_self, cpsr]
  mode := u.enter_modeBits k link u.cpsr
  arm := u.enter_thumb k link u.cpsr
  i := u.enter_irqMasked k link u.cpsr
  f := by
    rw [State.takeException, State.enter_fiqMasked, Exc.setsF_eq_decide]
    simp only [State.fiqMasked, cpsr]
  flags := by
    obtain ⟨n, z, c, v⟩ := u.sameFlags_enter k link u.cpsr
    obtain ⟨n', z', c', v'⟩ := State.sameFlags_of_cpsr cpsr
    exact ⟨n.trans n', z.trans z', c.trans c', v.trans v'⟩
  reserved := by rw [State.takeException, State.reserved_enter, cpsr]
  pc := rfl
  regs := fun p hp => by
    rw [State.takeException, State.getPhys_enter, if_neg (List.ne_of_not_mem_cons hp)]
    exact regs p (List.not_mem_of_not_mem_cons hp)
  spsrs := fun m hm => by rw [State.takeException, State.spsrOf_enter_ne _ _ _ _ hm, saved.spsrOf]
  draws := by rw [State.takeException, State.enter_draws, draws]

theorem State.entered_takeException_self : s.Entered (s.takeException k link) k link [] :=
  State.entered_takeException rfl (State.SameRegsBut.refl s []) (State.SameSaved.refl s) rfl k link

theorem State.sameMemory_takeException : s.SameMemory (s.takeException k link) := s.sameMemory_enter k link s.cpsr

theorem State.sameInputs_takeException : s.SameInputs (s.takeException k link) := s.sameInputs_enter k link s.cpsr

end Sys2Proof.Machine

namespace Sys2Proof.Machine

/-- Settles O16: the table row by row, and the vectors of the seven exceptions. -/
theorem exceptionTable : Obligations.ExceptionTable := by
  unfold Obligations.ExceptionTable
  refine ⟨by decide, fun k => ?_⟩
  cases k <;> decide

/-- Settles O17: the entry is `State.entered_takeException` with no work before it. -/
theorem takeException : Obligations.TakeException := by
  unfold Obligations.TakeException
  intro s k link
  exact ⟨s.entered_takeException_self k link, s.sameMemory_takeException k link, s.sameInputs_takeException k link⟩

/-- Settles O18: both forms are the software interrupt taken, the ARM form where its condition passes. -/
theorem softwareInterrupt : Obligations.SoftwareInterrupt := by
  unfold Obligations.SoftwareInterrupt
  intro s
  have taken (link : Word) := takeException s .swi link
  exact ⟨fun value => ⟨_, rfl, taken _⟩, fun cond value passed => ⟨_, if_pos passed, taken _⟩⟩

/-- An unallocated halfword has the one meaning of all of them. -/
theorem Unallocated.exec_eq {i : Instr} (h : Unallocated i) (s : State) : exec i s = s.unallocated := by
  cases h <;> rfl

/-- Settles O19: what all the unallocated halfwords do is decided by the platform's parameter. -/
theorem unallocatedHalfwords : Obligations.UnallocatedHalfwords := by
  unfold Obligations.UnallocatedHalfwords
  intro s i h
  rw [h.exec_eq s]
  constructor
  · exact fun traps => ⟨_, if_pos traps, takeException s .undefined _⟩
  · intro noTrap
    rw [State.unallocated, noTrap]
    rfl

/-- Settles O20: each of these halfwords has a refusal as its meaning. -/
theorem undefinedHalfwordsRefused : Obligations.UndefinedHalfwordsRefused := by
  unfold Obligations.UndefinedHalfwordsRefused
  exact fun s => ⟨fun x => ⟨rfl, rfl, rfl⟩, fun x => rfl, fun x => rfl, fun x => ⟨rfl, rfl, rfl, rfl, rfl, rfl, rfl⟩⟩

end Sys2Proof.Machine
end

section
/-! PROOFS. The boundary between two instructions: which event there is, and what the step leaves (R312, R315 to R317, R319,
R334). -/

namespace Sys2Proof.Machine

/-! ### The event at a boundary (R319) -/

/-- In a legal mode an FIQ that is not disabled comes first. -/
theorem State.workEvent_fiq {s : State} (legal : s.mode ≠ none) (fiq : s.lines.fiq = true) (enabled : s.fiqMasked = false) :
    s.workEvent = .fiq := by
  simp [State.workEvent, legal, fiq, enabled]

/-- An FIQ that is not asserted or is disabled is not taken. -/
theorem fiq_not_taken {s : State} (noFiq : s.lines.fiq = false ∨ s.fiqMasked = true) :
    (s.lines.fiq && !s.fiqMasked) = false := by
  rcases noFiq with h | h <;> simp [h]

/-- An IRQ that is not asserted or is disabled is not taken. -/
theorem irq_not_taken {s : State} (noIrq : s.lines.irq = false ∨ s.irqMasked = true) :
    (s.lines.irq && !s.irqMasked) = false := by
  rcases noIrq with h | h <;> simp [h]

theorem State.workEvent_irq {s : State} (legal : s.mode ≠ none) (noFiq : s.lines.fiq = false ∨ s.fiqMasked = true)
    (irq : s.lines.irq = true) (enabled : s.irqMasked = false) : s.workEvent = .irq := by
  simp [State.workEvent, legal, fiq_not_taken noFiq, irq, enabled]

/-- Where no interrupt is taken the event is that of the fetch. -/
theorem State.workEvent_fetch {s : State} (legal : s.mode ≠ none) (noFiq : s.lines.fiq = false ∨ s.fiqMasked = true)
    (noIrq : s.lines.irq = false ∨ s.irqMasked = true) : s.workEvent = s.fetchInstr := by
  simp [State.workEvent, legal, fiq_not_taken noFiq, irq_not_taken noIrq]

theorem State.workEvent_stuck {s : State} (illegal : s.mode = none) : s.workEvent = .stuck := by
  simp [State.workEvent, illegal]

theorem State.fetchInstr_aborted {s : State} (h : s.aborts .fetch s.fetchSize s.pc = true) :
    s.fetchInstr = .prefetchAbort := by
  simp [State.fetchInstr, h]

theorem State.fetchInstr_device {s : State} (noAbort : s.aborts .fetch s.fetchSize s.pc = false)
    (device : s.onDevice s.fetchSize s.pc = true) : s.fetchInstr = .refuse (.deviceFetch s.pc) := by
  simp [State.fetchInstr, noAbort, device]

/-- Some code at the PC of which a byte is stored is refused (R84). -/
theorem State.fetchInstr_stored {s : State} {c : Code} (noAbort : s.aborts .fetch s.fetchSize s.pc = false)
    (noDevice : s.onDevice s.fetchSize s.pc = false) (code : s.fetchCode = some c) (stored : s.fetchStored = true) :
    s.fetchInstr = .refuse (.storedText s.pc) := by
  simp [State.fetchInstr, noAbort, noDevice, code, stored]

/-- Some code at the PC of which no byte is stored is run where it decodes. -/
theorem State.fetchInstr_run {s : State} {c : Code} {i : Instr} (noAbort : s.aborts .fetch s.fetchSize s.pc = false)
    (noDevice : s.onDevice s.fetchSize s.pc = false) (code : s.fetchCode = some c) (notStored : s.fetchStored = false)
    (decoded : decodeCode c = .ok i) : s.fetchInstr = .run i := by
  simp [State.fetchInstr, noAbort, noDevice, code, notStored, decoded]

theorem State.Undisturbed.workEvent {s : State} (h : s.Undisturbed) : s.workEvent = s.fetchInstr :=
  State.workEvent_fetch h.legal h.noFiq h.noIrq

/-! ### The step without a reset -/

/-- A step without a reset works its event, on memory as the other masters have left it, and ends. -/
theorem step_of_workEvent {s : State} (noReset : s.lines.reset = false) :
    step s = mapNext State.endStep (s.midBus.work s.workEvent) := by
  simp [step, noReset]

/-- An entry is one still at the end of the step. -/
theorem State.Entered.endStep {s t : State} {k : Exc} {link : Word} {also : List PhysReg} (h : s.Entered t k link also) :
    s.Entered t.endStep k link also where
  link := by rw [State.getPhys_endStep, h.link]
  saved := by rw [← h.saved]; cases k <;> simp [State.spsrOf, Exc.mode]
  mode := by rw [← h.mode, State.modeBits, State.endStep_cpsr]; rfl
  arm := by rw [State.endStep_thumb, h.arm]
  i := by rw [← h.i, State.irqMasked, State.endStep_cpsr]; rfl
  f := by rw [← h.f, State.fiqMasked, State.endStep_cpsr]; rfl
  flags := by
    obtain ⟨n, z, c, v⟩ := State.sameFlags_of_cpsr t.endStep_cpsr
    exact ⟨n.trans h.flags.n, z.trans h.flags.z, c.trans h.flags.c, v.trans h.flags.v⟩
  reserved := by rw [State.endStep_cpsr, h.reserved]
  pc := by rw [State.endStep_pc, h.pc]
  regs := fun p hp => by rw [State.getPhys_endStep, h.regs p hp]
  spsrs := fun m hm => by rw [← h.spsrs m hm]; cases m <;> simp [State.spsrOf]
  draws := by rw [State.endStep_draws, h.draws]

/-- The inputs at the end of a step whose work has kept them. -/
theorem State.SameInputs.endStep {s t : State} (h : s.SameInputs t) : s.NextInputs t.endStep where
  lines := by rw [State.endStep_lines, h.upcoming, h.lines]
  upcoming := by rw [State.endStep_upcoming, h.upcoming]
  masters := by rw [State.endStep_masters, h.masters]
  resetting := by rw [State.endStep_resetting, h.lines]
  memoryMap := by rw [State.endStep_memoryMap, h.memoryMap]
  bigend := by rw [State.endStep_bigend, h.bigend]
  unallocTraps := by rw [State.endStep_unallocTraps, h.unallocTraps]

/-- Memory at the end of a step whose work has kept it has the other masters' writes, and no more. -/
theorem State.SameMemory.endStep {s t : State} (h : s.midBus.SameMemory t) (masters : t.masters = s.masters) :
    s.MastersMemory t.endStep where
  bytes a := by
    have turn : t.turn = s.turn := by rw [State.turn, masters]; rfl
    rw [State.readByte_endStep, h.bytes, State.readByte_midBus, turn, afterWrites_append]
  stored := by rw [State.endStep_stored, h.stored, State.midBus_stored]

/-- A step that takes an exception between instructions. -/
theorem State.entered_step {s : State} {k : Exc} {link : Word} (noReset : s.lines.reset = false)
    (work : s.midBus.work s.workEvent = .next (s.midBus.takeException k link)) :
    ∃ t, step s = .next t ∧ s.Entered t k link [] ∧ s.MastersMemory t ∧ s.NextInputs t := by
  refine ⟨(s.midBus.takeException k link).endStep, ?_, ?_, ?_, ?_⟩
  · rw [step_of_workEvent noReset, work]
    rfl
  · exact (State.entered_takeException (s := s) (u := s.midBus) rfl (fun _ _ => rfl) ⟨rfl, rfl, rfl, rfl, rfl⟩ rfl k
      link).endStep
  · exact (s.midBus.sameMemory_takeException k link).endStep (s.midBus.sameInputs_takeException k link).masters
  · exact (s.sameInputs_midBus.trans (s.midBus.sameInputs_takeException k link)).endStep

/-- Settles O21: in each case the event of the boundary (R319) takes the exception, and the step ends. -/
theorem boundaryExceptions : Obligations.BoundaryExceptions := by
  unfold Obligations.BoundaryExceptions
  intro s noReset legal
  refine ⟨fun fiq enabled => ?_, fun noFiq irq enabled => ?_, fun noFiq noIrq aborted => ?_⟩
  · exact State.entered_step noReset (by rw [State.workEvent_fiq legal fiq enabled]; rfl)
  · exact State.entered_step noReset (by rw [State.workEvent_irq legal noFiq irq enabled]; rfl)
  · exact State.entered_step noReset
      (by rw [State.workEvent_fetch legal noFiq noIrq, State.fetchInstr_aborted aborted]; rfl)

/-- Settles O11: the event is to be stuck, whose work keeps everything; what is left is the end of the step. -/
theorem illegalModeStuck : Obligations.IllegalModeStuck := by
  unfold Obligations.IllegalModeStuck
  intro s illegal noReset
  refine ⟨s.midBus.endStep, ?_, by simp, by simp, fun p _ => by simp, ?_, ?_, s.sameInputs_midBus.endStep⟩
  · rw [step_of_workEvent noReset, State.workEvent_stuck illegal]
    rfl
  · constructor <;> simp
  · exact (State.SameMemory.refl s.midBus).endStep rfl

/-! ### The code at the PC (R64, R65, R100) -/

theorem State.readHalf_of_bytes_some {s : State} {a : Word} {b0 b1 : Byte} (h0 : s.readByte a = some b0)
    (h1 : s.readByte (a + 1#32) = some b1) : s.readHalf a = some (halfOfBytes s.bigend b0 b1) := by
  simp [State.readHalf, h0, h1]

theorem State.readWord_of_bytes_some {s : State} {a : Word} {b0 b1 b2 b3 : Byte} (h0 : s.readByte a = some b0)
    (h1 : s.readByte (a + 1#32) = some b1) (h2 : s.readByte (a + 2#32) = some b2) (h3 : s.readByte (a + 3#32) = some b3) :
    s.readWord a = some (wordOfBytes s.bigend b0 b1 b2 b3) := by
  simp [State.readWord, h0, h1, h2, h3]

theorem State.fetchCode_thumb {s : State} {w : Half} (thumb : s.thumb = true) (h : s.readHalf s.pc = some w) :
    s.fetchCode = some (.half w) := by
  simp [State.fetchCode, thumb, h]

theorem State.fetchCode_arm {s : State} {w : Word} (arm : s.thumb = false) (h : s.readWord s.pc = some w) :
    s.fetchCode = some (.word w) := by
  simp [State.fetchCode, arm, h]

/-- Where the bytes at the PC hold values there is some code there. -/
theorem State.fetchCode_isSome {s : State}
    (h : ∀ j, j < (if s.thumb then 2 else 4) → (s.readByte (s.pc + BitVec.ofNat 32 j)).isSome) :
    ∃ c, s.fetchCode = some c := by
  have byte (j : Nat) (hj : j < if s.thumb then 2 else 4) := Option.isSome_iff_exists.mp (h j hj)
  cases thumb : s.thumb with
  | true =>
    simp only [thumb, if_true] at byte
    obtain ⟨b0, h0⟩ := byte 0 (by decide)
    obtain ⟨b1, h1⟩ := byte 1 (by decide)
    rw [BitVec.add_zero] at h0
    exact ⟨_, State.fetchCode_thumb thumb (State.readHalf_of_bytes_some h0 h1)⟩
  | false =>
    simp only [thumb, Bool.false_eq_true, if_false] at byte
    obtain ⟨b0, h0⟩ := byte 0 (by decide)
    obtain ⟨b1, h1⟩ := byte 1 (by decide)
    obtain ⟨b2, h2⟩ := byte 2 (by decide)
    obtain ⟨b3, h3⟩ := byte 3 (by decide)
    rw [BitVec.add_zero] at h0
    exact ⟨_, State.fetchCode_arm thumb (State.readWord_of_bytes_some h0 h1 h2 h3)⟩

/-- The instruction at the PC has a stored byte exactly where one of its bytes is stored (R84). -/
theorem State.fetchStored_iff {s : State} :
    s.fetchStored = true ↔ ∃ k, k < (if s.thumb then 2 else 4) ∧ (s.pc + BitVec.ofNat 32 k).toNat ∈ s.stored := by
  cases thumb : s.thumb with
  | true =>
    simp only [State.fetchStored, thumb, if_true, Bool.not_true, Bool.false_and, Bool.or_false, Bool.or_eq_true,
      List.contains_iff_mem, Nat.exists_lt_succ_right, Nat.not_lt_zero, false_and, exists_false, false_or, BitVec.add_zero]
  | false =>
    simp only [State.fetchStored, thumb, Bool.false_eq_true, if_false, Bool.not_false, Bool.true_and, Bool.or_eq_true,
      List.contains_iff_mem, Nat.exists_lt_succ_right, Nat.not_lt_zero, false_and, exists_false, false_or, BitVec.add_zero,
      or_assoc]

/-- Settles O10: a fetch that is answered is refused where a byte is stored (R84), and a fetch from a device before that. -/
theorem storedTextRefused : Obligations.StoredTextRefused := by
  unfold Obligations.StoredTextRefused
  constructor
  · intro s k undisturbed hk held stored
    obtain ⟨c, code⟩ := State.fetchCode_isSome held
    rw [step_of_workEvent undisturbed.noReset, undisturbed.workEvent,
      State.fetchInstr_stored undisturbed.noAbort undisturbed.noDevice code (State.fetchStored_iff.mpr ⟨k, hk, stored⟩)]
    rfl
  · intro s noReset legal noFiq noIrq noAbort device
    rw [step_of_workEvent noReset, State.workEvent_fetch legal noFiq noIrq, State.fetchInstr_device noAbort device]
    rfl

/-! ### A step that runs an instruction (R100, R315) -/

/-- Where no exception arises, the code at the PC, no byte of it stored, is run if it decodes. -/
theorem State.Undisturbed.workEvent_run {s : State} {c : Code} {i : Instr} (h : s.Undisturbed) (code : s.fetchCode = some c)
    (notStored : ∀ k, k < (if s.thumb then 2 else 4) → (s.pc + BitVec.ofNat 32 k).toNat ∉ s.stored)
    (decoded : decodeCode c = .ok i) : s.workEvent = .run i := by
  have noText : s.fetchStored = false := Bool.eq_false_of_not_eq_true fun stored => by
    obtain ⟨k, hk, hmem⟩ := State.fetchStored_iff.mp stored
    exact notStored k hk hmem
  rw [h.workEvent, State.fetchInstr_run h.noAbort h.noDevice code noText decoded]

/-- The halfword decoder makes well-formed instructions only. -/
theorem decodeThumb_wf (w : Half) : (decodeThumb w).wf = true := by
  unfold decodeThumb decodeAddSub decodeHiReg decodeAlu decodeBx decodeRegOffset decodeMisc decodeCond
  repeat' split
  all_goals rfl

/-- The bytes at the PC, as many as the state's instructions have, are the code fetched; what they decode to is well formed
and of the state the machine is in. -/
theorem State.fetchCode_of_decodeBytes {s : State} {bytes : List Byte} {i : Instr}
    (length : bytes.length = if s.thumb then 2 else 4)
    (held : ∀ k (h : k < bytes.length), s.readByte (s.pc + BitVec.ofNat 32 k) = some bytes[k])
    (decoded : decodeBytes s.thumb s.bigend bytes = .ok i) :
    ∃ c, s.fetchCode = some c ∧ decodeCode c = .ok i ∧ i.wf = true ∧ i.isThumb = s.thumb := by
  cases thumb : s.thumb with
  | true =>
    simp only [thumb, if_true] at length decoded
    obtain ⟨b0, b1, rfl⟩ := List.length_eq_two.mp length
    have h0 := held 0 (by simp)
    rw [BitVec.add_zero] at h0
    refine ⟨_, State.fetchCode_thumb thumb (State.readHalf_of_bytes_some h0 (held 1 (by simp))), decoded, ?_⟩
    obtain rfl : decodeThumb (halfOfBytes s.bigend b0 b1) = i := Except.ok.inj decoded
    exact ⟨decodeThumb_wf _, decodeThumb_isThumb _⟩
  | false =>
    simp only [thumb, Bool.false_eq_true, if_false] at length decoded
    match bytes, length with
    | [b0, b1, b2, b3], _ =>
      have h0 := held 0 (by simp)
      rw [BitVec.add_zero] at h0
      have word := State.readWord_of_bytes_some h0 (held 1 (by simp)) (held 2 (by simp)) (held 3 (by simp))
      obtain ⟨isArm, wf⟩ := decodeArm_ok decoded
      exact ⟨_, State.fetchCode_arm thumb word, decoded, wf, isArm⟩

/-- The other masters' writes after the fetch change memory only. -/
theorem State.onlyBus_midBus (s : State) : s.OnlyBus s.midBus s.turn.between :=
  ⟨rfl, rfl, rfl, ⟨rfl, rfl, rfl, rfl, rfl⟩, s.readByte_midBus, rfl, rfl⟩

/-- The end of a step changes memory, by the other masters' later writes, and the input lines only. -/
theorem State.onlyBus_endStep (s : State) : s.OnlyBus s.endStep s.turn.after :=
  ⟨s.endStep_pc, s.endStep_cpsr, s.endStep_regs,
    ⟨s.endStep_spsrFiq, s.endStep_spsrIrq, s.endStep_spsrSvc, s.endStep_spsrAbt, s.endStep_spsrUnd⟩, s.readByte_endStep,
    s.endStep_stored, s.endStep_draws⟩

/-- Settles O9: the bytes are the code fetched (`State.fetchCode_of_decodeBytes`), which the boundary runs. -/
theorem stepRunsDecoded : Obligations.StepRunsDecoded := by
  unfold Obligations.StepRunsDecoded
  intro s i bytes undisturbed length held notStored decoded
  obtain ⟨c, code, decodes, wf, state⟩ := State.fetchCode_of_decodeBytes length held decoded
  refine ⟨wf, state, ?_, s.onlyBus_midBus, s.sameInputs_midBus, fun u =>
    ⟨u.onlyBus_endStep, (State.SameInputs.refl u).endStep⟩⟩
  rw [step_of_workEvent undisturbed.noReset, undisturbed.workEvent_run code (length ▸ notStored) decodes]
  rfl

end Sys2Proof.Machine
end

section
/-! PROOFS. A reset in a run (R360, R361). -/

namespace Sys2Proof.Machine

/-! ### What a reset leaves, whatever state it finds -/

variable (s : State)

theorem State.takeReset_mem : s.takeReset.mem = s.mem := by simp [State.takeReset]

theorem State.takeReset_stored : s.takeReset.stored = s.stored := by simp [State.takeReset]

theorem State.sameInputs_takeReset : s.SameInputs s.takeReset := by constructor <;> simp [State.takeReset]

theorem State.getPhys_takeReset {p : PhysReg} (h : p ≠ .r14 .svc) : s.takeReset.getPhys p = s.getPhys p := by
  rw [State.takeReset, State.getPhys_drew, State.getPhys_enter]
  exact if_neg h

theorem State.spsrOf_takeReset {m : Mode} (h : m ≠ .svc) : s.takeReset.spsrOf m = s.spsrOf m :=
  s.spsrOf_enter_ne .reset (Config.resetLink s.draws) (Config.resetSaved s.draws) h

theorem State.sameFlags_takeReset : s.SameFlags s.takeReset :=
  have ⟨n, z, c, v⟩ := s.sameFlags_enter .reset (Config.resetLink s.draws) (Config.resetSaved s.draws)
  ⟨n, z, c, v⟩

theorem State.reserved_takeReset : s.takeReset.cpsr.extractLsb' 8 20 = s.cpsr.extractLsb' 8 20 :=
  s.reserved_enter .reset (Config.resetLink s.draws) (Config.resetSaved s.draws)

theorem State.getLsbD_cpsr_takeReset {j : Nat} (h : 8 ≤ j) : s.takeReset.cpsr.getLsbD j = s.cpsr.getLsbD j :=
  Exc.reset.getLsbD_cpsrAfter s.cpsr j h

/-- The control bits after a reset (R360). -/
theorem State.control_takeReset : s.takeReset.modeBits = 0b10011#5 ∧ s.takeReset.irqMasked = true ∧
    s.takeReset.fiqMasked = true ∧ s.takeReset.thumb = false :=
  ⟨s.enter_modeBits .reset (Config.resetLink s.draws) (Config.resetSaved s.draws),
    s.enter_irqMasked .reset (Config.resetLink s.draws) (Config.resetSaved s.draws),
    s.enter_fiqMasked .reset (Config.resetLink s.draws) (Config.resetSaved s.draws),
    s.enter_thumb .reset (Config.resetLink s.draws) (Config.resetSaved s.draws)⟩

/-! ### The state a reset finds -/

theorem State.sameInputs_interrupted : s.SameInputs s.interrupted := by
  unfold State.interrupted
  split
  · exact s.sameInputs_midBus
  · constructor <;> simp

theorem State.interrupted_resetting (h : s.resetting = true) : s.interrupted = s.midBus := if_pos h

theorem State.interrupted_abandon {u : State} (h : s.resetting = false) (work : s.midBus.work s.workEvent = .next u) :
    s.interrupted = s.midBus.abandon (some u) := by
  simp [State.interrupted, h, work, nextState?]

/-- A byte the abandoned work was not about to change is kept. -/
theorem State.readByte_abandon_kept {s u : State} {a : Word} (h : u.readByte a = s.readByte a) :
    (s.abandon (some u)).readByte a = s.readByte a := by
  rw [State.readByte_abandon]
  simp [changing, h]

/-! ### The step of a reset -/

theorem step_reset {s : State} (h : s.lines.reset = true) : step s = .next s.interrupted.takeReset.endStep := by
  simp [step, h]

theorem State.readByte_reset_step (a : Word) :
    s.interrupted.takeReset.endStep.readByte a = afterWrites s.turn.after a (s.interrupted.readByte a) := by
  have turn : s.interrupted.takeReset.turn = s.turn := by
    rw [State.turn, (s.sameInputs_interrupted.trans s.interrupted.sameInputs_takeReset).masters]
    rfl
  rw [State.readByte_endStep, turn, State.readByte_congr s.interrupted.takeReset_mem]

/-- What the work of the boundary was not about to change is kept by a reset that abandons it (R361). -/
theorem State.abandoned_reset_step {s u : State} (h : s.resetting = false) (work : s.midBus.work s.workEvent = .next u) :
    s.Abandoned u s.interrupted.takeReset.endStep := by
  have found := s.interrupted_abandon h work
  constructor
  case regs =>
    intro p hp kept
    rw [State.getPhys_endStep, State.getPhys_takeReset _ hp, found]
    exact s.midBus.getPhys_abandon kept
  case spsrs =>
    intro m hm kept
    rw [s.interrupted.takeReset.onlyBus_endStep.saved.spsrOf, State.spsrOf_takeReset _ hm, found]
    exact s.midBus.spsrOf_abandon kept
  case bits =>
    intro j hj kept
    rw [State.endStep_cpsr, State.getLsbD_cpsr_takeReset _ hj, found]
    exact s.midBus.cpsr_abandon kept
  case bytes =>
    intro a kept
    rw [State.readByte_reset_step, found, State.readByte_abandon_kept kept]
  case stored =>
    rw [State.endStep_stored, State.takeReset_stored, found, State.abandon_stored]
    rfl

/-- Settles O6: the control bits come from the entry, all else from the state the reset finds, which is that of the boundary
while nRESET stays LOW and else the one of an abandoned instruction. -/
theorem resetTakesEffect : Obligations.ResetTakesEffect := by
  unfold Obligations.ResetTakesEffect
  intro s reset
  obtain ⟨mode, i, f, arm⟩ := s.interrupted.control_takeReset
  have cpsr := s.interrupted.takeReset.endStep_cpsr
  refine ⟨_, step_reset reset, by simp only [State.endStep_pc]; rfl, by rw [State.modeBits, cpsr]; exact mode,
    by rw [State.irqMasked, cpsr]; exact i, by rw [State.fiqMasked, cpsr]; exact f, by rw [State.endStep_thumb]; exact arm,
    (s.sameInputs_interrupted.trans s.interrupted.sameInputs_takeReset).endStep, ?held, fun u => State.abandoned_reset_step⟩
  case held =>
    intro resetting
    rw [s.interrupted_resetting resetting] at *
    refine ⟨?flags, ?reserved, fun p hp => ?reg, fun m hm => ?spsr, ?memory⟩
    case flags =>
      obtain ⟨n, z, c, v⟩ := State.sameFlags_of_cpsr cpsr
      obtain ⟨n', z', c', v'⟩ := s.midBus.sameFlags_takeReset
      exact ⟨n.trans n', z.trans z', c.trans c', v.trans v'⟩
    case reserved => rw [cpsr]; exact s.midBus.reserved_takeReset
    case reg => rw [State.getPhys_endStep]; exact s.midBus.getPhys_takeReset (by simpa using hp)
    case spsr =>
      rw [s.midBus.takeReset.onlyBus_endStep.saved.spsrOf]
      exact s.midBus.spsrOf_takeReset hm
    case memory =>
      have memory : s.midBus.SameMemory s.midBus.takeReset :=
        ⟨State.readByte_congr s.midBus.takeReset_mem, s.midBus.takeReset_stored⟩
      exact memory.endStep s.midBus.sameInputs_takeReset.masters

end Sys2Proof.Machine
end

section
/-! PROOFS. The return from an exception (R284 to R286, R320), and the return from each exception entered (R306). -/

namespace Sys2Proof.Machine

/-- Each of the three returns is an exception return to R14 less its constant, under its condition. -/
theorem ReturnForm.exec_eq {i : Instr} {cond : BitVec 4} {less : Word} (h : ReturnForm i cond less) (s : State) :
    exec i s = s.whenPassed cond (s.exceptionReturn (s.readReg lrReg - less)) := by
  cases h with
  | movs => rw [BitVec.sub_zero]; rfl
  | subs4 | subs8 => rfl

theorem State.exceptionReturn_of_spsr {s : State} {m : Mode} {w : Word} (mode : s.mode = some m) (spsr : s.spsrOf m = some w)
    (v : Word) : s.exceptionReturn v =
      .next { s with cpsr := w, pc := if psrT w then v &&& ~~~1#32 else v &&& ~~~3#32 } := by
  simp [State.exceptionReturn, mode, spsr]

theorem State.exceptionReturn_noSpsr {s : State} {m : Mode} (mode : s.mode = some m) (spsr : s.spsrOf m = none) (v : Word) :
    s.exceptionReturn v = .refused .noSpsr := by
  simp [State.exceptionReturn, mode, spsr]

theorem State.whenPassed_of_passed {s : State} {cond : BitVec 4} (h : s.condPassed cond = true) (r : Result) :
    s.whenPassed cond r = r := if_pos h

/-- Settles O24: a return is `State.exceptionReturn` (`ReturnForm.exec_eq`), which writes the CPSR and the PC only; an illegal
mode is found at the next boundary. -/
theorem exceptionReturn : Obligations.ExceptionReturn := by
  unfold Obligations.ExceptionReturn
  intro s i cond less form passed
  rw [form.exec_eq s, State.whenPassed_of_passed passed]
  constructor
  · intro m w mode spsr
    refine ⟨_, State.exceptionReturn_of_spsr mode spsr _, rfl, rfl, fun _ _ => rfl, ⟨rfl, rfl, rfl, rfl, rfl⟩,
      ⟨fun _ => rfl, rfl⟩, ⟨rfl, rfl, rfl, rfl, rfl, rfl, rfl⟩, rfl, fun illegal noReset => ?_⟩
    rw [State.nextEvent, noReset]
    exact State.workEvent_stuck illegal
  · rintro (user | system)
    · exact State.exceptionReturn_noSpsr user rfl _
    · exact State.exceptionReturn_noSpsr system rfl _

/-! ### The way back from an entry (R306, R320) -/

/-- Condition 1110 always passes (R282). -/
theorem State.condPassed_always (s : State) : s.condPassed 0xE#4 = true := rfl

/-- The mode after an entry. -/
theorem State.Entered.mode_eq {s t : State} {k : Exc} {link : Word} {also : List PhysReg} (h : s.Entered t k link also) :
    t.mode = some k.mode := by
  rw [State.mode, h.mode, Mode.ofBits_bits]

theorem State.Entered.readReg_lr {s t : State} {k : Exc} {link : Word} {also : List PhysReg} (h : s.Entered t k link also) :
    t.readReg lrReg = link := by
  rw [State.readReg_of_phys t (p := .r14 k.mode.bank) (by rw [h.mode_eq]; simp), h.link]

/-- A return from the state an exception has entered restores the CPSR, resumes at the link less the return's constant,
aligned for the state returned to, and keeps memory. -/
theorem State.Entered.returns {s t : State} {k : Exc} {link : Word} {also : List PhysReg} (h : s.Entered t k link also)
    {i : Instr} {less : Word} (form : ReturnForm i 0xE#4 less) :
    ∃ u, exec i t = .next u ∧
      s.Resumed u k (if s.thumb then (link - less) &&& ~~~1#32 else (link - less) &&& ~~~3#32) also ∧ t.SameMemory u := by
  have exec_eq := form.exec_eq t
  rw [State.whenPassed_of_passed t.condPassed_always, State.exceptionReturn_of_spsr h.mode_eq h.saved, h.readReg_lr] at exec_eq
  exact ⟨_, exec_eq, ⟨rfl, rfl, h.regs, h.spsrs⟩, ⟨fun _ => rfl, rfl⟩⟩

/-! ### A data abort with an FIQ pending (R323) -/

theorem State.entered_dataAbort (s : State) : s.Entered s.dataAbort .dataAbort (s.pc + 8#32) [] :=
  s.entered_takeException_self .dataAbort (s.pc + 8#32)

theorem State.fetchInstr_ne_irq (s : State) : s.fetchInstr ≠ .irq := by
  unfold State.fetchInstr
  repeat' split
  all_goals simp

/-- Where I is set no IRQ is taken. -/
theorem State.nextEvent_ne_irq {s : State} (masked : s.irqMasked = true) : s.nextEvent ≠ .irq := by
  unfold State.nextEvent State.workEvent
  rw [irq_not_taken (.inr masked), if_neg Bool.false_ne_true]
  repeat' split
  case isFalse.isFalse.isFalse => exact s.fetchInstr_ne_irq
  all_goals nofun

/-- Settles O23: the abort keeps F, so the FIQ is entered at the next boundary with the link 0x14 (`State.entered_step`), and
the return from it goes back to 0x10 with the CPSR of the abort (`State.Entered.returns`). -/
theorem dataAbortThenFiq : Obligations.DataAbortThenFiq := by
  unfold Obligations.DataAbortThenFiq
  intro s enabled
  have abort := s.entered_dataAbort
  have stillEnabled : s.dataAbort.fiqMasked = false := by rw [abort.f, enabled]; rfl
  refine ⟨abort.pc, abort.mode, abort.i, stillEnabled, fun l noReset => ⟨fun fiq => ?_, fun _ => ?_⟩⟩
  · have legal : ({ s.dataAbort with lines := l }).mode ≠ none := by
      show s.dataAbort.mode ≠ none
      rw [abort.mode_eq]
      exact Option.some_ne_none _
    obtain ⟨u, stepped, entered, -, -⟩ := State.entered_step (s := { s.dataAbort with lines := l }) (k := .fiq)
      (link := 0x14#32) noReset
      (by rw [State.workEvent_fiq legal fiq stillEnabled]; rfl)
    obtain ⟨w, returned, resumed, -⟩ := entered.returns (.subs4 0xE#4)
    refine ⟨u, w, stepped, entered.pc, entered.link, Option.some.inj entered.saved, returned, ?_, resumed.cpsr⟩
    rw [resumed.pc]
    show (if s.dataAbort.thumb then (0x14#32 - 4#32) &&& ~~~1#32 else (0x14#32 - 4#32) &&& ~~~3#32) = 0x10#32
    rw [abort.arm]
    decide
  · exact State.nextEvent_ne_irq (s := { s.dataAbort with lines := l }) abort.i

end Sys2Proof.Machine
end

section
/-! PROOFS. What every instruction keeps, said once (R27, R28, R39, R302): the parts of the machine's invariant, the work of an
instruction on registers, flags and memory, and the four ways in which an instruction can answer a next state. -/

namespace Sys2Proof.Machine

/-! ### The parts of the invariant -/

/-- The part of the invariant that is about memory (`State.Inv`). -/
structure State.MemoryInv (s : State) : Prop where
  canonical : Memory.wf s.mem
  rising : s.stored.Pairwise (· < ·)
  held : ∀ n ∈ s.stored, ∃ a : Word, a.toNat = n ∧ (s.readByte a).isSome

theorem State.inv_iff {s : State} : s.Inv ↔ s.MemoryInv ∧ s.PcAligned :=
  ⟨fun h => ⟨⟨h.memory, h.storedRising, h.storedHeld⟩, h.pcThumb, h.pcArm⟩,
    fun ⟨m, p⟩ => ⟨m.canonical, m.rising, m.held, p.thumb, p.arm⟩⟩

theorem State.MemoryInv.congr {s t : State} (h : s.MemoryInv) (mem : t.mem = s.mem) (stored : t.stored = s.stored) :
    t.MemoryInv where
  canonical := mem ▸ h.canonical
  rising := stored ▸ h.rising
  held n hn := by
    obtain ⟨a, ha, held⟩ := h.held n (stored ▸ hn)
    exact ⟨a, ha, (State.readByte_congr mem a).symm ▸ held⟩

theorem State.MemoryInv.writeByte {s : State} (h : s.MemoryInv) (a : Word) (b : Byte) : (s.writeByte a b).MemoryInv where
  canonical := State.writeByte_wf a b h.canonical
  rising := insertAddr_sorted h.rising
  held n hn := by
    rcases (s.mem_writeByte_stored a b n).mp hn with rfl | hn
    · exact ⟨a, rfl, by rw [State.readByte_writeByte, if_pos rfl]; rfl⟩
    · obtain ⟨c, hc, held⟩ := h.held n hn
      refine ⟨c, hc, ?_⟩
      rw [State.readByte_writeByte]
      split
      · rfl
      · exact held

theorem State.MemoryInv.writeMem {s : State} (h : s.MemoryInv) (z : Size) (a v : Word) : (s.writeMem z a v).MemoryInv := by
  cases z with
  | byte => exact h.writeByte _ _
  | half => exact (h.writeByte _ _).writeByte _ _
  | word => exact (((h.writeByte _ _).writeByte _ _).writeByte _ _).writeByte _ _

theorem State.MemoryInv.storeMany {s : State} (h : s.MemoryInv) (rs : List RegNum) (a : Word) :
    (s.storeMany rs a).1.MemoryInv := by
  induction rs generalizing s a with
  | nil => exact h
  | cons r rs ih =>
    simp only [State.storeMany]
    split
    · exact ih h _
    · split
      · exact ih (h.writeMem .word a (s.readReg r)) _
      · exact ih h _

/-- The other masters write bytes and take none away. -/
theorem State.MemoryInv.of_afterWrites {s t : State} {ws : List BusWrite} (h : s.MemoryInv) (canonical : Memory.wf t.mem)
    (bytes : ∀ a, t.readByte a = afterWrites ws a (s.readByte a)) (stored : t.stored = s.stored) : t.MemoryInv where
  canonical := canonical
  rising := stored ▸ h.rising
  held n hn := by
    obtain ⟨a, ha, held⟩ := h.held n (stored ▸ hn)
    exact ⟨a, ha, bytes a ▸ isSome_afterWrites ws a held⟩

theorem State.MemoryInv.midBus {s : State} (h : s.MemoryInv) : s.midBus.MemoryInv :=
  h.of_afterWrites (s.midBus_wf h.canonical) s.readByte_midBus rfl

theorem State.MemoryInv.endStep {s : State} (h : s.MemoryInv) : s.endStep.MemoryInv :=
  h.of_afterWrites (s.endStep_wf h.canonical) s.readByte_endStep s.endStep_stored

/-- What an abandoned instruction was about to write holds some value all the same (R361). -/
theorem State.MemoryInv.abandon {s : State} {after : Option State} (h : (after.getD s).MemoryInv) :
    (s.abandon after).MemoryInv where
  canonical := s.abandon_wf after h.canonical
  rising := by rw [State.abandon_stored]; exact h.rising
  held n hn := by
    obtain ⟨a, ha, held⟩ := h.held n (by rwa [State.abandon_stored] at hn)
    exact ⟨a, ha, by rw [State.readByte_abandon, Option.isSome_map]; exact held⟩

/-! ### Aligned addresses (R28, R30) -/

theorem getLsbD_zero_and_not_one (a : Word) : (a &&& ~~~1#32).getLsbD 0 = false := by simp

theorem getLsbD_and_not_three (a : Word) : (a &&& ~~~3#32).getLsbD 0 = false ∧ (a &&& ~~~3#32).getLsbD 1 = false := by
  simp

theorem getLsbD_zero_add_two {a : Word} (h : a.getLsbD 0 = false) : (a + 2#32).getLsbD 0 = false := by
  rw [getLsbD_zero_add, h]
  rfl

/-- Bits [1:0] of an address are 0 exactly where it is a multiple of 4. -/
theorem low_bits_zero_iff {a : Word} : (a.getLsbD 0 = false ∧ a.getLsbD 1 = false) ↔ a.toNat % 4 = 0 := by
  simp only [BitVec.getLsbD, Nat.testBit, Nat.shiftRight_eq_div_pow, Nat.one_and_eq_mod_two,
    bne_eq_false_iff_eq]
  omega

/-- A word-aligned address plus 4 is word aligned. -/
theorem word_aligned_add_four {a : Word} (h : a.getLsbD 0 = false ∧ a.getLsbD 1 = false) :
    (a + 4#32).getLsbD 0 = false ∧ (a + 4#32).getLsbD 1 = false := by
  rw [low_bits_zero_iff] at h ⊢
  bv_omega

theorem State.PcAligned.of_arm {s : State} (arm : s.thumb = false) (h : s.pc.getLsbD 0 = false ∧ s.pc.getLsbD 1 = false) :
    s.PcAligned :=
  ⟨fun thumb => (Bool.false_ne_true (arm.symm.trans thumb)).elim, fun _ => h⟩

theorem State.PcAligned.of_thumb {s : State} (thumb : s.thumb = true) (h : s.pc.getLsbD 0 = false) : s.PcAligned :=
  ⟨fun _ => h, fun arm => (Bool.false_ne_true (arm.symm.trans thumb)).elim⟩

theorem State.PcAligned.congr {s t : State} (h : s.PcAligned) (pc : t.pc = s.pc) (thumb : t.thumb = s.thumb) : t.PcAligned :=
  ⟨fun ht => pc.symm ▸ h.thumb (thumb ▸ ht), fun ha => pc.symm ▸ h.arm (thumb ▸ ha)⟩

/-- A write of a register number keeps the PC aligned: one of 15 is a control transfer (R30). -/
theorem State.PcAligned.writeReg {s : State} (h : s.PcAligned) (i : RegNum) (v : Word) : (s.writeReg i v).PcAligned := by
  rcases s.writeReg_cases i v with ⟨p, -, eq⟩ | ⟨-, eq⟩
  · exact eq ▸ h.congr rfl rfl
  · rw [eq, State.branch_eq]
    cases thumb : s.thumb with
    | true => exact .of_thumb thumb (getLsbD_zero_and_not_one v)
    | false => exact .of_arm thumb (getLsbD_and_not_three v)

/-- The vectors are word aligned (R303). -/
theorem vector_aligned (k : Exc) : k.vector.getLsbD 0 = false ∧ k.vector.getLsbD 1 = false := by
  cases k <;> decide

/-- The vectors are word aligned, and an exception is entered in ARM state (R303, R305). -/
theorem State.pcAligned_enter (s : State) (k : Exc) (link saved : Word) : (s.enter k link saved).PcAligned :=
  .of_arm (s.enter_thumb k link saved) (vector_aligned k)

/-! ### The work of an instruction on registers, flags and memory -/

/-- What the work of an instruction keeps that neither enters an exception nor leaves one: the CPSR but for the flags and
T, the SPSRs, and what the invariant says of memory. -/
structure State.Ordinary (s t : State) : Prop where
  low : ∀ j, j < 28 → j ≠ 5 → t.cpsr.getLsbD j = s.cpsr.getLsbD j
  saved : s.SameSaved t
  memory : s.MemoryInv → t.MemoryInv

/-- Such work before the PC has gone on: T is kept, and the PC aligned. -/
structure State.Computes (s t : State) : Prop extends s.Ordinary t where
  state : t.thumb = s.thumb
  aligned : s.PcAligned → t.PcAligned

theorem State.Computes.refl (s : State) : s.Computes s :=
  ⟨⟨fun _ _ _ => rfl, State.SameSaved.refl s, id⟩, rfl, id⟩

theorem State.SameSaved.trans {s t u : State} (h : s.SameSaved t) (k : t.SameSaved u) : s.SameSaved u :=
  ⟨k.fiq.trans h.fiq, k.irq.trans h.irq, k.svc.trans h.svc, k.abt.trans h.abt, k.und.trans h.und⟩

theorem State.Ordinary.trans {s t u : State} (h : s.Ordinary t) (k : t.Ordinary u) : s.Ordinary u :=
  ⟨fun j hj h5 => (k.low j hj h5).trans (h.low j hj h5), h.saved.trans k.saved, fun m => k.memory (h.memory m)⟩

theorem State.Computes.trans {s t u : State} (h : s.Computes t) (k : t.Computes u) : s.Computes u :=
  ⟨h.toOrdinary.trans k.toOrdinary, k.state.trans h.state, fun a => k.aligned (h.aligned a)⟩

/-- A write of one bit of the CPSR that is a flag or T. -/
theorem State.ordinary_putBit (s : State) (i : Nat) (b : Bool) (hi : i < 32) (h : 28 ≤ i ∨ i = 5) :
    s.Ordinary { s with cpsr := putBit s.cpsr i b } where
  low j hj h5 := by
    simp only [getLsbD_putBit _ _ _ _ hi]
    rw [if_neg (by omega)]
  saved := ⟨rfl, rfl, rfl, rfl, rfl⟩
  memory h := h.congr rfl rfl

theorem State.computes_setNZ (s : State) (r : Word) : s.Computes (s.setNZ r) :=
  ⟨(s.ordinary_putBit 31 _ (by decide) (by decide)).trans
      (State.ordinary_putBit { s with cpsr := putBit s.cpsr 31 (r.getLsbD 31) } 30 (r == 0#32) (by decide) (by decide)),
    s.setNZ_thumb r, fun h => h.congr rfl (s.setNZ_thumb r)⟩

theorem State.computes_setC (s : State) (c : Bool) : s.Computes (s.setC c) :=
  ⟨s.ordinary_putBit 29 c (by decide) (by decide), s.setC_thumb c, fun h => h.congr rfl (s.setC_thumb c)⟩

theorem State.computes_setV (s : State) (v : Bool) : s.Computes (s.setV v) :=
  ⟨s.ordinary_putBit 28 v (by decide) (by decide), s.setV_thumb v, fun h => h.congr rfl (s.setV_thumb v)⟩

theorem State.OnlyRegs.ordinary {s t : State} (h : s.OnlyRegs t) : s.Ordinary t :=
  ⟨fun _ _ _ => by rw [h.cpsr], ⟨h.spsrFiq, h.spsrIrq, h.spsrSvc, h.spsrAbt, h.spsrUnd⟩, fun m => m.congr h.mem h.stored⟩

theorem State.computes_writeReg (s : State) (i : RegNum) (v : Word) : s.Computes (s.writeReg i v) :=
  ⟨(s.onlyRegs_writeReg i v).ordinary, s.writeReg_thumb i v, fun h => h.writeReg i v⟩

theorem State.computes_draws (s : State) (n : Nat) : s.Computes { s with draws := n } :=
  ⟨⟨fun _ _ _ => rfl, ⟨rfl, rfl, rfl, rfl, rfl⟩, fun h => h.congr rfl rfl⟩, rfl, fun h => h.congr rfl rfl⟩

theorem State.OnlyMemory.computes {s t : State} (h : s.OnlyMemory t) (memory : s.MemoryInv → t.MemoryInv) : s.Computes t :=
  ⟨⟨fun _ _ _ => by rw [h.cpsr], ⟨h.spsrFiq, h.spsrIrq, h.spsrSvc, h.spsrAbt, h.spsrUnd⟩, memory⟩, h.thumb,
    fun a => a.congr h.pc h.thumb⟩

theorem State.computes_writeMem (s : State) (z : Size) (a v : Word) : s.Computes (s.writeMem z a v) :=
  (s.onlyMemory_writeMem z a v).computes fun h => h.writeMem z a v

theorem State.computes_storeMany (s : State) (rs : List RegNum) (a : Word) : s.Computes (s.storeMany rs a).1 :=
  (s.onlyMemory_storeMany rs a).computes fun h => h.storeMany rs a

theorem State.computes_loadMany {s t : State} {rs : List RegNum} {a : Word} (h : (s.loadMany rs a).state = some t) :
    s.Computes t := by
  refine ⟨(State.onlyRegs_loadMany h).ordinary, (State.onlyRegs_loadMany h).thumb, ?_⟩
  induction rs generalizing s a with
  | nil => cases h; exact id
  | cons r rs ih =>
    simp only [State.loadMany] at h
    split at h
    · cases h; exact id
    · split at h
      · exact fun aligned => ih h ((aligned.writeReg r _).congr rfl rfl)
      · split at h
        · exact fun aligned => ih h (aligned.writeReg r _)
        · cases h

/-! ### The ways in which an instruction answers a next state -/

/-- What an instruction leaves that goes on in the state, ARM or THUMB, that it belongs to. -/
structure State.GoesOn (s t : State) (thumbRow : Bool) : Prop extends s.Ordinary t where
  state : t.thumb = s.thumb
  aligned : s.thumb = thumbRow → s.PcAligned → t.PcAligned

theorem State.Computes.goesOn {s t : State} (h : s.Computes t) (thumbRow : Bool) : s.GoesOn t thumbRow :=
  ⟨h.toOrdinary, h.state, fun _ => h.aligned⟩

/-- The PC written, all else kept. -/
theorem State.Computes.goesOn_pc {s u : State} {thumbRow : Bool} (h : s.Computes u) (pc : Word)
    (aligned : u.thumb = thumbRow → u.PcAligned → ({ u with pc := pc }).PcAligned) : s.GoesOn { u with pc := pc } thumbRow :=
  ⟨h.toOrdinary.trans ⟨fun _ _ _ => rfl, ⟨rfl, rfl, rfl, rfl, rfl⟩, fun m => m.congr rfl rfl⟩, h.state,
    fun row a => aligned (h.state.trans row) (h.aligned a)⟩

theorem State.Computes.advanceThumb {s u : State} (h : s.Computes u) : s.GoesOn u.advanceThumb true :=
  h.goesOn_pc _ fun thumb a => .of_thumb thumb (getLsbD_zero_add_two (a.thumb thumb))

theorem State.Computes.branchThumb {s u : State} (h : s.Computes u) (a : Word) : s.GoesOn (u.branchThumb a) true :=
  h.goesOn_pc _ fun thumb _ => .of_thumb thumb (getLsbD_zero_and_not_one a)

theorem State.Computes.advanceArm {s u : State} (h : s.Computes u) : s.GoesOn u.advanceArm false :=
  h.goesOn_pc _ fun arm a => .of_arm arm (word_aligned_add_four (a.arm arm))

theorem State.Computes.branchArm {s u : State} (h : s.Computes u) (a : Word) : s.GoesOn (u.branchArm a) false :=
  h.goesOn_pc _ fun arm _ => .of_arm arm (getLsbD_and_not_three a)

/-- The count of the free values drawn is no part of what an instruction keeps. -/
theorem State.GoesOn.drew {s t : State} {thumbRow : Bool} (h : s.GoesOn t thumbRow) (n : Nat) :
    s.GoesOn { t with draws := n } thumbRow :=
  ⟨h.toOrdinary.trans (t.computes_draws n).toOrdinary, h.state, fun row a => (h.aligned row a).congr rfl rfl⟩

/-- The three forms of BX (R194, R283). -/
inductive ExchangeForm : Instr → Prop where
  | bxRs (rs : BitVec 3) : ExchangeForm (.bxRs rs)
  | bxHs (hs : BitVec 3) : ExchangeForm (.bxHs hs)
  | armBx (cond rn : BitVec 4) : ExchangeForm (.armBx cond rn)

/-- The four ways in which an instruction answers a next state: it goes on; it is BX; it enters an exception, having done
some work; it returns from one. -/
inductive State.Answers (s : State) (i : Instr) : State → Prop where
  | goesOn {t : State} (h : s.GoesOn t i.isThumb) : s.Answers i t
  | exchanges {t : State} (form : ExchangeForm i) (ordinary : s.Ordinary t) (aligned : t.PcAligned) : s.Answers i t
  | enters {u : State} {k : Exc} {link : Word} {also : List PhysReg} (which : k = .swi ∨ k = .undefined ∨ k = .dataAbort)
    (cpsr : u.cpsr = s.cpsr) (saved : s.SameSaved u) (regs : s.SameRegsBut u also) (memory : s.MemoryInv → u.MemoryInv) :
    s.Answers i (u.takeException k link)
  | returns {t : State} {v : Word} (arm : i.isThumb = false) (h : s.exceptionReturn v = .next t) : s.Answers i t

/-- An exception taken with no work before it. -/
theorem State.answers_takeException (s : State) (i : Instr) {k : Exc} (which : k = .swi ∨ k = .undefined ∨ k = .dataAbort)
    (link : Word) : s.Answers i (s.takeException k link) :=
  .enters which rfl (State.SameSaved.refl s) (State.SameRegsBut.refl s []) id

/-! ### The shared endings of the instructions -/

variable {s t : State}

theorem State.putShifted_goesOn {rd : BitVec 3} {x : Shifted} (h : s.putShifted rd x = .next t) : s.GoesOn t true := by
  cases h
  exact (((s.computes_writeReg _ _).trans (State.computes_setNZ _ _)).trans (State.computes_setC _ _)).advanceThumb

theorem State.computes_setSumFlags (s : State) (x : Sum) : s.Computes (s.setSumFlags x) :=
  ((s.computes_setNZ _).trans (State.computes_setC _ _)).trans (State.computes_setV _ _)

theorem State.putSum_goesOn {rd : BitVec 3} {x : Sum} (h : s.putSum rd x = .next t) : s.GoesOn t true := by
  cases h
  exact ((s.computes_writeReg _ _).trans (State.computes_setSumFlags _ _)).advanceThumb

theorem State.compareSum_goesOn {x : Sum} (h : s.compareSum x = .next t) : s.GoesOn t true := by
  cases h
  exact (s.computes_setSumFlags x).advanceThumb

theorem State.putLogical_goesOn {rd : BitVec 3} {r : Word} (h : s.putLogical rd r = .next t) : s.GoesOn t true := by
  cases h
  exact ((s.computes_writeReg _ _).trans (State.computes_setNZ _ _)).advanceThumb

theorem execMulReg_goesOn {rd rs : BitVec 3} (h : execMulReg rd rs s = .next t) : s.GoesOn t true := by
  cases h
  refine State.GoesOn.drew ?_ _
  exact (((s.computes_writeReg _ _).trans (State.computes_setNZ _ _)).trans (State.computes_setC _ _)).advanceThumb

/-- A register written, past the instruction or, for R15, at the value. -/
theorem State.writeReg_goesOn {d : RegNum} {r : Word}
    (h : (if d = pcReg then Host.Outcome.next (s.writeReg d r) else .next (s.writeReg d r).advanceThumb : Result) = .next t) :
    s.GoesOn t true := by
  split at h
  · cases h
    exact (s.computes_writeReg d r).goesOn true
  · cases h
    exact (s.computes_writeReg d r).advanceThumb

theorem State.condBranch_goesOn {cond : BitVec 4} {off : BitVec 8} (h : s.condBranch cond off = .next t) :
    s.GoesOn t true := by
  rw [State.condBranch_next h]
  split
  · exact (State.Computes.refl s).branchThumb _
  · exact (State.Computes.refl s).advanceThumb

theorem State.branchExchange_answers {i : Instr} (form : ExchangeForm i) {a : Word} (h : s.branchExchange a = .next t) :
    s.Answers i t := by
  rcases State.branchExchange_next h with ⟨-, rfl⟩ | ⟨h0, h1, rfl⟩
  · exact .exchanges form ((s.ordinary_putBit 5 true (by decide) (by decide)).trans
      ⟨fun _ _ _ => rfl, ⟨rfl, rfl, rfl, rfl, rfl⟩, fun m => m.congr rfl rfl⟩)
      (.of_thumb (s.setT_thumb true) (getLsbD_zero_and_not_one a))
  · exact .exchanges form ((s.ordinary_putBit 5 false (by decide) (by decide)).trans
      ⟨fun _ _ _ => rfl, ⟨rfl, rfl, rfl, rfl, rfl⟩, fun m => m.congr rfl rfl⟩) (.of_arm (s.setT_thumb false) ⟨h0, h1⟩)

theorem State.dataAbort_answers (s : State) (i : Instr) : s.Answers i s.dataAbort :=
  s.answers_takeException i (.inr (.inr rfl)) _

theorem State.load_answers {i : Instr} (thumbRow : i.isThumb = true) {rd : BitVec 3} {z : Size} {a : Word} {f : Word → Word}
    (h : s.load z a (fun v => s.putLoaded rd (f v)) = .next t) : s.Answers i t := by
  rcases State.load_next h with ⟨-, ⟨-, rfl⟩ | ⟨-, ⟨-, rfl⟩ | ⟨-, v, -, rfl⟩⟩⟩
  · exact s.dataAbort_answers i
  · refine .goesOn (thumbRow ▸ State.GoesOn.drew ?_ _)
    exact (s.computes_writeReg _ _).advanceThumb
  · exact .goesOn (thumbRow ▸ (s.computes_writeReg _ _).advanceThumb)

theorem State.store_answers {i : Instr} (thumbRow : i.isThumb = true) {z : Size} {a v : Word}
    (h : s.store z a v = .next t) : s.Answers i t := by
  rcases State.store_next h with ⟨-, ⟨-, rfl⟩ | ⟨-, ⟨-, rfl⟩ | ⟨-, rfl⟩⟩⟩
  · exact s.dataAbort_answers i
  · exact .goesOn (thumbRow ▸ (s.computes_writeMem z a v).advanceThumb)
  · exact .goesOn (thumbRow ▸ (State.Computes.refl s).advanceThumb)

/-- A write of some numbers changes no register that they do not name. -/
theorem State.sameRegsBut_writeReg {u : State} {regs : List RegNum} (h : s.SameRegsBut u (s.named regs)) (mode : u.mode = s.mode)
    (base : RegNum) (v : Word) : s.SameRegsBut (u.writeReg base v) (s.named (base :: regs)) := by
  intro p hp
  have notBase : phys u.mode base ≠ some p := fun hb => hp (List.mem_filterMap.mpr ⟨base, List.mem_cons_self, mode ▸ hb⟩)
  have notRegs : p ∉ s.named regs := fun hr => by
    obtain ⟨r, hr, hrp⟩ := List.mem_filterMap.mp hr
    exact hp (List.mem_filterMap.mpr ⟨r, List.mem_cons_of_mem base hr, hrp⟩)
  rw [State.getPhys_writeReg, if_neg notBase, h p notRegs]

theorem State.blockStore_answers {i : Instr} (thumbRow : i.isThumb = true) {regs : List RegNum} {start final : Word}
    {base : RegNum} (h : s.blockStore regs start base final = .next t) : s.Answers i t := by
  have stores := s.computes_storeMany regs start
  have only := s.onlyMemory_storeMany regs start
  have work := stores.trans (State.computes_writeReg _ base final)
  rcases State.blockStore_next h with ⟨-, -, ⟨-, rfl⟩ | ⟨-, rfl⟩⟩
  · exact .enters (.inr (.inr rfl)) ((State.writeReg_cpsr _ _ _).trans only.cpsr) work.saved
      (State.sameRegsBut_writeReg (regs := []) (fun p _ => only.getPhys p) only.mode base final) work.memory
  · exact .goesOn (thumbRow ▸ work.advanceThumb)

theorem State.sameRegsBut_loadMany {u : State} {rs : List RegNum} {a : Word} (h : (s.loadMany rs a).state = some u) :
    s.SameRegsBut u (s.named rs) := fun _ hp =>
  State.getPhys_loadMany_ne h fun r hr hrp => hp (List.mem_filterMap.mpr ⟨r, hr, hrp⟩)

theorem State.blockLoad_answers {i : Instr} (thumbRow : i.isThumb = true) {regs : List RegNum} {start final : Word}
    {base : RegNum} (h : s.blockLoad regs start base final = .next t) : s.Answers i t := by
  rcases State.blockLoad_next h with ⟨-, -, ⟨u, loaded, rfl⟩ | ⟨u, loaded, rfl⟩⟩
  · have some : (s.loadMany regs start).state = some u := by rw [loaded]; rfl
    have only := State.onlyRegs_loadMany some
    have work := (State.computes_loadMany some).trans (State.computes_writeReg _ base final)
    exact .enters (.inr (.inr rfl)) ((State.writeReg_cpsr _ _ _).trans only.cpsr) work.saved
      (State.sameRegsBut_writeReg (State.sameRegsBut_loadMany some) only.mode base final) work.memory
  · have some : (s.loadMany regs start).state = some u := by rw [loaded]; rfl
    have work := (State.computes_loadMany some).trans (State.computes_writeReg _ base final)
    split
    · exact .goesOn (work.goesOn _)
    · exact .goesOn (thumbRow ▸ work.advanceThumb)

theorem State.unallocated_answers {i : Instr} (h : s.unallocated = .next t) : s.Answers i t := by
  obtain ⟨-, rfl⟩ := State.unallocated_next h
  exact s.answers_takeException i (.inr (.inl rfl)) _

/-- An ARM instruction answers as it does where its condition passes, or goes past itself. -/
theorem State.whenPassed_answers {i : Instr} (armRow : i.isThumb = false) {cond : BitVec 4} {r : Result}
    (answers : r = .next t → s.Answers i t) (h : s.whenPassed cond r = .next t) : s.Answers i t := by
  rcases State.whenPassed_next h with ⟨-, h⟩ | ⟨-, rfl⟩
  · exact answers h
  · exact .goesOn (armRow ▸ (State.Computes.refl s).advanceArm)

/-! ### Every instruction -/

theorem exec_answers {i : Instr} (h : exec i s = .next t) : s.Answers i t := by
  cases i with
  | lslImm | lsrImm | asrImm | lslReg | lsrReg | asrReg | rorReg => exact .goesOn (State.putShifted_goesOn h)
  | addReg | addImm3 | subReg | subImm3 | addImm8 | subImm8 | adcReg | sbcReg | negReg =>
    exact .goesOn (State.putSum_goesOn h)
  | cmpImm8 | cmpReg | cmnReg | cmpRdHs | cmpHdRs | cmpHdHs => exact .goesOn (State.compareSum_goesOn h)
  | andReg | eorReg | orrReg | bicReg | mvnReg | movImm8 => exact .goesOn (State.putLogical_goesOn h)
  | tstReg => cases h; exact .goesOn (s.computes_setNZ _).advanceThumb
  | mulReg => exact .goesOn (execMulReg_goesOn h)
  | addRdHs | addHdRs | addHdHs | movRdHs | movHdRs | movHdHs => exact .goesOn (State.writeReg_goesOn h)
  | addPc | addSp | addSpPos | addSpNeg | blHigh => cases h; exact .goesOn (s.computes_writeReg _ _).advanceThumb
  | bxRs rs => exact State.branchExchange_answers (.bxRs rs) h
  | bxHs hs => exact State.branchExchange_answers (.bxHs hs) h
  | ldrPc | ldrReg | ldrImm | ldrSp | ldrbReg | ldrbImm | ldrhReg | ldrhImm =>
    exact State.load_answers (f := id) rfl h
  | ldsbReg => exact State.load_answers (f := signByte) rfl h
  | ldshReg => exact State.load_answers (f := signHalf) rfl h
  | strReg | strImm | strSp | strbReg | strbImm | strhReg | strhImm => exact State.store_answers rfl h
  | push | pushLr => exact State.blockStore_answers rfl h
  | pop | popPc => exact State.blockLoad_answers rfl h
  | stmia rb rlist =>
    simp only [exec, execStmia] at h
    split at h
    · cases h
    · exact State.blockStore_answers rfl h
  | ldmia rb rlist =>
    simp only [exec, execLdmia] at h
    split at h
    · cases h
    · exact State.blockLoad_answers rfl h
  | beq | bne | bcs | bcc | bmi | bpl | bvs | bvc | bhi | bls | bge | blt | bgt | ble =>
    exact .goesOn (State.condBranch_goesOn h)
  | swi => cases h; exact s.answers_takeException _ (.inl rfl) _
  | b => cases h; exact .goesOn ((State.Computes.refl s).branchThumb _)
  | blLow => cases h; exact .goesOn ((s.computes_writeReg _ _).branchThumb _)
  | undefAddLoLo | undefCmpLoLo | undefMovLoLo | undefBxH1 | bxLowBits1 | bxLowBits2 | bxLowBits3 | bxLowBits4 |
    bxLowBits5 | bxLowBits6 | bxLowBits7 | undefCond14 => cases h
  | unallocB1 | unallocB2 | unallocB3 | unallocB6 | unallocB7 | unallocB8 | unallocB9 | unallocBA | unallocBB | unallocBE |
    unallocBF | unallocE8 => exact State.unallocated_answers h
  | armBx cond rn => exact State.whenPassed_answers rfl (State.branchExchange_answers (.armBx cond rn)) h
  | armMovsPcLr | armSubsPcLr4 | armSubsPcLr8 => exact State.whenPassed_answers rfl (.returns rfl) h
  | armMovPcLr | armB =>
    refine State.whenPassed_answers rfl (fun h => ?_) h
    cases h
    exact .goesOn ((State.Computes.refl s).branchArm _)
  | armBl =>
    refine State.whenPassed_answers rfl (fun h => ?_) h
    cases h
    exact .goesOn ((s.computes_writeReg _ _).branchArm _)
  | armSwi =>
    refine State.whenPassed_answers rfl (fun h => ?_) h
    cases h
    exact s.answers_takeException _ (.inl rfl) _

/-! ### Every step -/

variable {k : Exc} {e : Event} {i : Instr}

theorem State.Answers.memoryInv (h : s.Answers i t) (m : s.MemoryInv) : t.MemoryInv := by
  cases h with
  | goesOn h => exact h.memory m
  | exchanges form ordinary aligned => exact ordinary.memory m
  | enters which cpsr saved regs memory => exact (memory m).congr (State.enter_mem ..) (State.enter_stored ..)
  | returns arm h =>
    obtain ⟨_, _, -, -, rfl⟩ := State.exceptionReturn_next h
    exact m.congr rfl rfl

theorem State.MemoryInv.takeException (h : s.MemoryInv) (k : Exc) (link : Word) : (s.takeException k link).MemoryInv :=
  h.congr (State.enter_mem ..) (State.enter_stored ..)

/-- The work of a boundary keeps what the invariant says of memory. -/
theorem State.MemoryInv.work (m : s.MemoryInv) (h : s.work e = .next t) : t.MemoryInv := by
  cases e with
  | reset => cases h; exact m.congr s.takeReset_mem s.takeReset_stored
  | stuck => cases h; exact m
  | fiq | irq | prefetchAbort => cases h; exact m.takeException _ _
  | run i => exact (exec_answers h).memoryInv m
  | fault | refuse => cases h

/-- A reset that abandons the work of a boundary keeps it too, whether or not that work answers a next state (R361). -/
theorem State.MemoryInv.interrupted (m : s.MemoryInv) : s.interrupted.MemoryInv := by
  unfold State.interrupted
  split
  · exact m.midBus
  · refine State.MemoryInv.abandon ?_
    cases work : s.midBus.work s.workEvent with
    | next u => exact m.midBus.work work
    | fault | refused => exact m.midBus

/-- The machine stands at the vector of an exception just entered (R303, R305). -/
structure State.AtVector (s : State) (k : Exc) : Prop where
  modeBits : s.modeBits = k.mode.bits
  mode : s.mode = some k.mode
  pc : s.pc = k.vector
  state : s.thumb = false

theorem State.atVector_enter (s : State) (k : Exc) (link saved : Word) : (s.enter k link saved).AtVector k :=
  ⟨s.enter_modeBits k link saved, s.enter_mode k link saved, rfl, s.enter_thumb k link saved⟩

theorem State.atVector_takeReset (s : State) : s.takeReset.AtVector .reset :=
  have h := s.atVector_enter .reset (Config.resetLink s.draws) (Config.resetSaved s.draws)
  ⟨h.modeBits, h.mode, h.pc, h.state⟩

theorem State.AtVector.endStep (h : s.AtVector k) : s.endStep.AtVector k :=
  ⟨(congrArg psrM s.endStep_cpsr).trans h.modeBits, s.endStep_mode.trans h.mode, s.endStep_pc.trans h.pc,
    s.endStep_thumb.trans h.state⟩

theorem State.AtVector.pcAligned (h : s.AtVector k) : s.PcAligned :=
  .of_arm h.state (h.pc ▸ vector_aligned k)

/-- The instruction that a boundary runs belongs to the state the machine is in (R100). -/
theorem State.isThumb_of_run (h : s.nextEvent = .run i) : i.isThumb = s.thumb := by
  obtain ⟨c, code, decoded, -⟩ := State.nextEvent_run h
  rcases State.fetchCode_kind code with ⟨thumb, w, rfl⟩ | ⟨arm, w, rfl⟩
  · cases decoded
    exact (decodeThumb_isThumb w).trans thumb.symm
  · exact (decodeArm_ok decoded).1.trans arm.symm

theorem State.fetchInstr_ne_fiq (s : State) : s.fetchInstr ≠ .fiq := by
  unfold State.fetchInstr
  repeat' split
  all_goals nofun

/-- Where F is set no FIQ is taken. -/
theorem State.nextEvent_ne_fiq (masked : s.fiqMasked = true) : s.nextEvent ≠ .fiq := by
  unfold State.nextEvent State.workEvent
  rw [fiq_not_taken (.inr masked), if_neg Bool.false_ne_true]
  repeat' split
  case isFalse.isFalse.isFalse => exact s.fetchInstr_ne_fiq
  all_goals nofun

/-- The three kinds of step: in an illegal mode nothing but what the other masters and the host do; an exception entered at
the boundary, an interrupt only where its disable bit is clear; or the instruction, of the state the machine is in. -/
theorem step_answers (h : step s = .next t) :
    t = s.midBus.endStep ∨
    (∃ (k : Exc) (u : State), u.AtVector k ∧ (k = .irq → s.irqMasked = false) ∧ (k = .fiq → s.fiqMasked = false) ∧
      (s.MemoryInv → u.MemoryInv) ∧ t = u.endStep) ∨
    ∃ (i : Instr) (u : State), i.isThumb = s.thumb ∧ s.midBus.Answers i u ∧ t = u.endStep := by
  rcases step_next h with
    ⟨-, rfl⟩ | ⟨-, rfl⟩ | ⟨fiq, rfl⟩ | ⟨irq, rfl⟩ | ⟨-, rfl⟩ | ⟨i, u, run, work, rfl⟩
  · exact .inr (.inl ⟨.reset, _, State.atVector_takeReset _, nofun, nofun,
      fun m => m.interrupted.congr (State.takeReset_mem ..) (State.takeReset_stored ..), rfl⟩)
  · exact .inl rfl
  · exact .inr (.inl ⟨.fiq, _, State.atVector_enter .., nofun, fun _ => by simpa using fun m => s.nextEvent_ne_fiq m fiq,
      fun m => m.midBus.takeException _ _, rfl⟩)
  · exact .inr (.inl ⟨.irq, _, State.atVector_enter .., fun _ => by simpa using fun m => s.nextEvent_ne_irq m irq, nofun,
      fun m => m.midBus.takeException _ _, rfl⟩)
  · exact .inr (.inl ⟨.prefetchAbort, _, State.atVector_enter .., nofun, nofun,
      fun m => m.midBus.takeException _ _, rfl⟩)
  · exact .inr (.inr ⟨i, u, State.isThumb_of_run run, exec_answers work, rfl⟩)

/-! ### The obligations -/

/-- Settles O7: memory is empty and the PC is 0. -/
theorem resetInvariant : Obligations.ResetInvariant := by
  exact State.inv_iff.mpr ⟨⟨State.reset_mem_wf, List.Pairwise.nil, nofun⟩, .of_arm rfl ⟨rfl, rfl⟩⟩

/-- An instruction run in the state it belongs to leaves the PC aligned. -/
theorem State.Answers.pcAligned (h : s.Answers i t) (row : i.isThumb = s.thumb) (a : s.PcAligned) : t.PcAligned := by
  cases h with
  | goesOn h => exact h.aligned row.symm a
  | exchanges form ordinary aligned => exact aligned
  | enters which cpsr saved regs memory => exact State.pcAligned_enter ..
  | returns arm h =>
    obtain ⟨_, w, -, -, rfl⟩ := State.exceptionReturn_next h
    cases thumb : psrT w with
    | true => exact .of_thumb thumb (by simp)
    | false => exact .of_arm thumb (by simp)

/-- Settles O8, by the three kinds of step: what the invariant says of memory, then that the PC is aligned. -/
theorem stepKeepsInvariant : Obligations.StepKeepsInvariant := by
  unfold Obligations.StepKeepsInvariant
  intro s t inv h
  obtain ⟨memory, aligned⟩ := State.inv_iff.mp inv
  rw [State.inv_iff]
  rcases step_answers h with rfl | ⟨k, u, vector, -, -, kept, rfl⟩ | ⟨i, u, row, answers, rfl⟩
  · exact ⟨memory.midBus.endStep, aligned.congr (State.endStep_pc _) (State.endStep_thumb _)⟩
  · exact ⟨(kept memory).endStep, vector.endStep.pcAligned⟩
  · exact ⟨(answers.memoryInv memory.midBus).endStep,
      (answers.pcAligned row (aligned.congr rfl rfl)).congr (State.endStep_pc u) (State.endStep_thumb u)⟩

/-- What an instruction leaves unless it enters an exception or returns from one: the control bits and the SPSRs (R27). -/
theorem State.Ordinary.control (h : s.Ordinary t) : s.SameControl t ∧ s.SameSaved t :=
  ⟨State.sameControl_of_bits h.low, h.saved⟩

/-- What an instruction does with the control bits and the SPSRs: it keeps them; it is at a vector; or it has returned, in
ARM state, from a mode with an SPSR. -/
theorem State.Answers.control (h : s.Answers i t) :
    (s.SameControl t ∧ s.SameSaved t) ∨ (∃ k, t.AtVector k ∧ k ≠ .irq ∧ k ≠ .fiq) ∨
    (i.isThumb = false ∧ ∃ m w, s.mode = some m ∧ s.spsrOf m = some w ∧ t.cpsr = w) := by
  cases h with
  | goesOn h => exact .inl h.toOrdinary.control
  | exchanges form ordinary aligned => exact .inl ordinary.control
  | enters which cpsr saved regs memory =>
    refine .inr (.inl ⟨_, State.atVector_enter .., ?_⟩)
    rcases which with rfl | rfl | rfl <;> decide
  | returns arm h =>
    obtain ⟨m, w, mode, spsr, rfl⟩ := State.exceptionReturn_next h
    exact .inr (.inr ⟨arm, m, w, mode, spsr, rfl⟩)

/-- User and System mode have no SPSR (R26). -/
theorem Mode.privileged_of_spsr {m : Mode} {w : Word} (h : s.spsrOf m = some w) : m ≠ .usr ∧ m ≠ .sys := by
  constructor <;> rintro rfl <;> cases h

/-- Settles O26, by the three kinds of step: an instruction that keeps the control bits does not change the mode. -/
theorem modeChanges : Obligations.ModeChanges := by
  unfold Obligations.ModeChanges
  intro s t h changed
  have notSystem (k : Exc) : some k.mode ≠ some Mode.sys := by cases k <;> decide
  have modeBits (u : State) : u.endStep.modeBits = u.modeBits := congrArg psrM u.endStep_cpsr
  rcases step_answers h with rfl | ⟨k, u, vector, irq, fiq, -, rfl⟩ | ⟨i, u, row, answers, rfl⟩
  · exact absurd (modeBits _) changed
  · have at_ := vector.endStep
    exact .inl ⟨k, at_.modeBits, at_.pc, at_.state, irq, fiq, at_.mode ▸ notSystem k⟩
  · rcases answers.control with ⟨control, -⟩ | ⟨k, vector, notIrq, notFiq⟩ | ⟨arm, m, w, mode, spsr, rfl⟩
    · exact absurd ((modeBits u).trans control.m) changed
    · have at_ := vector.endStep
      exact .inl ⟨k, at_.modeBits, at_.pc, at_.state, fun h => absurd h notIrq, fun h => absurd h notFiq,
        at_.mode ▸ notSystem k⟩
    · obtain ⟨notUser, notSys⟩ := Mode.privileged_of_spsr spsr
      exact .inr ⟨m, u.cpsr, mode, notUser, notSys, row.symm.trans arm, spsr, u.endStep_cpsr⟩

/-- Settles O27, by the three kinds of step: there is no return from User mode. -/
theorem userControlBits : Obligations.UserControlBits := by
  unfold Obligations.UserControlBits
  intro s t user h
  have notUser (k : Exc) : k.mode ≠ Mode.usr := by cases k <;> decide
  have kept {u : State} (control : s.midBus.SameControl u) (saved : s.midBus.SameSaved u) :
      s.SameControl u.endStep ∧ s.SameSaved u.endStep := by
    obtain ⟨i, f, m, reserved⟩ := control
    have cpsr := u.endStep_cpsr
    exact ⟨⟨(congrArg psrI cpsr).trans i, (congrArg psrF cpsr).trans f, (congrArg psrM cpsr).trans m,
        (congrArg (BitVec.extractLsb' 8 20) cpsr).trans reserved⟩,
      ⟨u.endStep_spsrFiq.trans saved.fiq, u.endStep_spsrIrq.trans saved.irq, u.endStep_spsrSvc.trans saved.svc,
        u.endStep_spsrAbt.trans saved.abt, u.endStep_spsrUnd.trans saved.und⟩⟩
  rcases step_answers h with rfl | ⟨k, u, vector, -, -, -, rfl⟩ | ⟨i, u, -, answers, rfl⟩
  · exact .inl (kept ⟨rfl, rfl, rfl, rfl⟩ (State.SameSaved.refl _))
  · exact .inr ⟨k, vector.endStep.mode, notUser k, vector.endStep.pc, vector.endStep.state⟩
  · rcases answers.control with ⟨control, saved⟩ | ⟨k, vector, -⟩ | ⟨-, m, w, mode, spsr, -⟩
    · exact .inl (kept control saved)
    · exact .inr ⟨k, vector.endStep.mode, notUser k, vector.endStep.pc, vector.endStep.state⟩
    · obtain rfl : m = .usr := Option.some.inj (mode.symm.trans user)
      cases spsr

/-- An exception taken after work that may have drawn free values. -/
theorem State.entered_redrawn {u : State} {also : List PhysReg} (cpsr : u.cpsr = s.cpsr) (regs : s.SameRegsBut u also)
    (saved : s.SameSaved u) (k : Exc) (link : Word) :
    ({ s with draws := (u.takeException k link).draws }).Entered (u.takeException k link) k link also :=
  State.entered_takeException (s := { s with draws := (u.takeException k link).draws }) cpsr regs
    ⟨saved.fiq, saved.irq, saved.svc, saved.abt, saved.und⟩ (State.enter_draws ..).symm k link

/-- Settles O28, by the ways in which an instruction answers: a THUMB instruction does not return. -/
theorem thumbKeepsControl : Obligations.ThumbKeepsControl := by
  unfold Obligations.ThumbKeepsControl
  intro s t i thumb h
  cases exec_answers h with
  | goesOn h =>
    obtain ⟨control, saved⟩ := h.toOrdinary.control
    exact .inl ⟨control, saved, .inl h.state⟩
  | exchanges form ordinary aligned =>
    obtain ⟨control, saved⟩ := ordinary.control
    refine .inl ⟨control, saved, .inr ?_⟩
    cases form with
    | bxRs rs => exact .inl ⟨rs, rfl⟩
    | bxHs hs => exact .inr ⟨hs, rfl⟩
    | armBx => cases thumb
  | enters which cpsr saved regs memory =>
    exact .inr ⟨_, _, _, which, State.entered_redrawn cpsr regs saved _ _⟩
  | returns arm => exact absurd (thumb.symm.trans arm) (by decide)

end Sys2Proof.Machine
end

section
/-! PROOFS. Formats 1 to 4: shifts, sums, differences, comparisons, logic, multiplication. Each instruction's ending has its
result in Sys2Proof/Laws/Results.lean; what is left is the arithmetic of the shifter (R41) and of `AddWithCarry` (R40). -/

namespace Sys2Proof.Machine

/-! ### The shifter (R41) -/

theorem shiftLsl_eq (v : Word) (n : Nat) (cin : Bool) :
    shiftLsl v n cin =
      ⟨BitVec.ofNat 32 (v.toNat * 2 ^ n), if n = 0 then cin else if n ≤ 32 then v.getLsbD (32 - n) else false⟩ := by
  have value : BitVec.ofNat 32 (v.toNat * 2 ^ n) = v <<< n :=
    BitVec.eq_of_toNat_eq (by rw [BitVec.toNat_ofNat, BitVec.toNat_shiftLeft, Nat.shiftLeft_eq])
  rw [value]
  unfold shiftLsl
  split
  case isTrue h0 => simp [h0]
  case isFalse h0 =>
    split
    case isTrue h32 => simp [Nat.le_of_lt h32]
    case isFalse h32 =>
      rw [BitVec.shiftLeft_eq_zero (Nat.not_lt.mp h32)]
      split
      case isTrue eq => simp [eq]
      case isFalse ne => simp [show ¬ n ≤ 32 by omega]

theorem shiftLsr_eq (v : Word) (n : Nat) (cin : Bool) :
    shiftLsr v n cin =
      ⟨BitVec.ofNat 32 (v.toNat / 2 ^ n), if n = 0 then cin else if n ≤ 32 then v.getLsbD (n - 1) else false⟩ := by
  have value : BitVec.ofNat 32 (v.toNat / 2 ^ n) = v >>> n :=
    BitVec.eq_of_toNat_eq (by
      rw [BitVec.toNat_ofNat, BitVec.toNat_ushiftRight, Nat.shiftRight_eq_div_pow,
        Nat.mod_eq_of_lt (Nat.lt_of_le_of_lt (Nat.div_le_self _ _) v.isLt)])
  rw [value]
  unfold shiftLsr
  split
  case isTrue h0 => simp [h0]
  case isFalse h0 =>
    split
    case isTrue h32 => simp [Nat.le_of_lt h32]
    case isFalse h32 =>
      rw [BitVec.ushiftRight_eq_zero (Nat.not_lt.mp h32)]
      split
      case isTrue eq => simp [eq]
      case isFalse ne => simp [show ¬ n ≤ 32 by omega]

/-- An arithmetic shift right divides by a power of 2, rounding down. -/
theorem ofInt_toInt_div (v : Word) (n : Nat) : BitVec.ofInt 32 (v.toInt / 2 ^ n) = v.sshiftRight n := by
  rw [← BitVec.ofInt_toInt (x := v.sshiftRight n), BitVec.toInt_sshiftRight, Int.shiftRight_eq_div_pow]
  norm_cast

/-- From 32 places on it leaves the sign in every bit. -/
theorem sshiftRight_of_le {v : Word} {n : Nat} (h : 32 ≤ n) :
    v.sshiftRight n = if v.getLsbD 31 then BitVec.allOnes 32 else 0#32 := by
  apply BitVec.eq_of_getLsbD_eq
  intro i hi
  rw [BitVec.getLsbD_sshiftRight, BitVec.msb_eq_getLsbD_last]
  rw [if_neg (by omega : ¬ n + i < 32)]
  cases v.getLsbD 31 with
  | true => rw [if_pos rfl, BitVec.getLsbD_allOnes, decide_eq_true hi, decide_eq_false (by omega : ¬ 32 ≤ i)]; rfl
  | false => simp

theorem shiftAsr_eq (v : Word) (n : Nat) (cin : Bool) :
    shiftAsr v n cin =
      ⟨BitVec.ofInt 32 (v.toInt / 2 ^ n), if n = 0 then cin else if n ≤ 32 then v.getLsbD (n - 1) else v.getLsbD 31⟩ := by
  rw [ofInt_toInt_div]
  unfold shiftAsr
  split
  case isTrue h0 => simp [h0]
  case isFalse h0 =>
    split
    case isTrue h32 => simp [Nat.le_of_lt h32]
    case isFalse h32 =>
      rw [sshiftRight_of_le (Nat.not_lt.mp h32)]
      by_cases eq : n = 32
      · simp [eq]
      · simp [show ¬ n ≤ 32 by omega]

theorem shiftRor_eq (v : Word) (n : Nat) (cin : Bool) :
    shiftRor v n cin =
      ⟨v.rotateRight (n % 32),
        if n = 0 then cin else if n % 32 = 0 then v.getLsbD 31 else v.getLsbD (n % 32 - 1)⟩ := by
  unfold shiftRor
  split
  case isTrue h0 => simp [h0, BitVec.rotateRight_def]
  case isFalse h0 =>
    split
    case isTrue hm => simp [hm, BitVec.rotateRight_def]
    case isFalse hm =>
      rw [BitVec.rotateRight_def, Nat.mod_mod]

/-- A shift's ending with the value and the carry given. -/
theorem State.putShifted_of {s : State} {rd : BitVec 3} {x : Shifted} {value : Word} {carry : Bool} (h : x = ⟨value, carry⟩) :
    ∃ t, s.putShifted rd x = .next t ∧ s.LoResult t rd value carry s.flagV :=
  h ▸ s.putShifted_result rd x

/-- The field 0 of a shift right by an immediate means 32 places (R143, R144; GK4). -/
theorem shiftLsr_rightAmount (v : Word) (off : BitVec 5) (cin : Bool) :
    shiftLsr v (rightAmount off) cin =
      ⟨if off = 0#5 then 0#32 else BitVec.ofNat 32 (v.toNat / 2 ^ off.toNat),
        if off = 0#5 then v.getLsbD 31 else v.getLsbD (off.toNat - 1)⟩ := by
  unfold rightAmount
  split
  case isTrue => rfl
  case isFalse nonzero =>
    have offLt := off.isLt
    rw [shiftLsr_eq, if_neg (by bv_omega), if_pos (by omega)]

theorem shiftAsr_rightAmount (v : Word) (off : BitVec 5) (cin : Bool) :
    shiftAsr v (rightAmount off) cin =
      ⟨if off = 0#5 then (if v.toInt < 0 then 0xFFFFFFFF#32 else 0#32) else BitVec.ofInt 32 (v.toInt / 2 ^ off.toNat),
        if off = 0#5 then v.getLsbD 31 else v.getLsbD (off.toNat - 1)⟩ := by
  unfold rightAmount
  split
  case isTrue =>
    simp only [shiftAsr, getLsbD_31_eq_sign, decide_eq_true_eq]
    rfl
  case isFalse nonzero =>
    have offLt := off.isLt
    rw [shiftAsr_eq, if_neg (by bv_omega), if_pos (by omega)]

/-- Settles O29: the shifter's rows in closed form (`shiftLsl_eq` and its fellows), the field 0 of a shift right apart. -/
theorem shiftImmediate : Obligations.ShiftImmediate := by
  unfold Obligations.ShiftImmediate
  intro s rd rs off
  refine ⟨State.putShifted_of ((shiftLsl_eq _ _ _).trans ?_), State.putShifted_of (shiftLsr_rightAmount _ off _),
    State.putShifted_of (shiftAsr_rightAmount _ off _)⟩
  have offLt := off.isLt
  have offZero : off.toNat = 0 ↔ off = 0#5 := by bv_omega
  simp only [offZero, if_pos (show off.toNat ≤ 32 by omega)]

theorem regAmount_eq (v : Word) : regAmount v = v.toNat % 256 := by
  simp [regAmount]

/-- Settles O30: the shifter's rows at the amount of the bottom byte. -/
theorem shiftRegister : Obligations.ShiftRegister := by
  unfold Obligations.ShiftRegister
  rintro s rd rs x n rfl amount
  obtain rfl : n = regAmount (s.readReg (loReg rs)) := amount.trans (regAmount_eq _).symm
  exact ⟨State.putShifted_of (shiftLsl_eq _ _ _), State.putShifted_of (shiftLsr_eq _ _ _),
    State.putShifted_of (shiftAsr_eq _ _ _), State.putShifted_of (shiftRor_eq _ _ _)⟩

/-! ### The sums (R40) -/

theorem addWithCarry_eq (a b : Word) (c : Bool) :
    addWithCarry a b c =
      ⟨a + b + BitVec.ofNat 32 c.toNat, decide (2 ^ 32 ≤ a.toNat + b.toNat + c.toNat),
        overflows (a.toInt + b.toInt + c.toNat)⟩ := by
  have value : (addWithCarry a b c).value = a + b + BitVec.ofNat 32 c.toNat := by
    apply BitVec.eq_of_toNat_eq
    simp [addWithCarry]
  rw [← addWithCarry_overflow, ← value]
  rfl

theorem addWithCarry_not_eq (a b : Word) (c : Bool) :
    addWithCarry a (~~~b) c =
      ⟨a - b - BitVec.ofNat 32 (1 - c.toNat), decide (b.toNat + (1 - c.toNat) ≤ a.toNat),
        overflows (a.toInt - b.toInt - (1 - c.toNat))⟩ := by
  have value : a + ~~~b + BitVec.ofNat 32 c.toNat = a - b - BitVec.ofNat 32 (1 - c.toNat) := by
    cases c <;> dsimp only [Bool.toNat_true, Bool.toNat_false] <;> bv_omega
  have carry : 2 ^ 32 ≤ a.toNat + (~~~b).toNat + c.toNat ↔ b.toNat + (1 - c.toNat) ≤ a.toNat := by
    have hb := b.isLt
    have hc := c.toNat_le
    rw [BitVec.toNat_not]
    omega
  rw [← addWithCarry_sub_overflow, ← value, ← decide_eq_decide.mpr carry, addWithCarry_eq]

theorem addWithCarry_false (a b : Word) :
    addWithCarry a b false = ⟨a + b, decide (2 ^ 32 ≤ a.toNat + b.toNat), overflows (a.toInt + b.toInt)⟩ := by
  simp [addWithCarry_eq]

theorem addWithCarry_not_true (a b : Word) :
    addWithCarry a (~~~b) true = ⟨a - b, decide (b.toNat ≤ a.toNat), overflows (a.toInt - b.toInt)⟩ := by
  simp [addWithCarry_not_eq]

/-- A sum's ending with the sum given. -/
theorem State.putSum_of {s : State} {rd : BitVec 3} {x : Sum} {r : Word} {c v : Bool} (h : x = ⟨r, c, v⟩) :
    ∃ t, s.putSum rd x = .next t ∧ s.LoResult t rd r c v :=
  h ▸ s.putSum_result rd x

/-- A comparison's ending with the sum given. -/
theorem State.compareSum_of {s : State} {x : Sum} {r : Word} {c v : Bool} (h : x = ⟨r, c, v⟩) :
    ∃ t, s.compareSum x = .next t ∧ s.FlagResult t r c v :=
  h ▸ s.compareSum_result x

/-- Settles O31: each is the sum of its operands without a carry in (`addWithCarry_false`). -/
theorem additions : Obligations.Additions := by
  unfold Obligations.Additions
  rintro s i rd a b (⟨rs, rn, rfl, rfl, rfl⟩ | ⟨rs, imm, rfl, rfl, rfl⟩ | ⟨imm, rfl, rfl, rfl⟩)
  · exact State.putSum_of (addWithCarry_false _ _)
  all_goals
    rw [← immU_eq_ofNat]
    exact State.putSum_of (addWithCarry_false _ _)

/-- Settles O32: a difference is a sum with the complement and a carry in (`addWithCarry_not_true`). -/
theorem subtractions : Obligations.Subtractions := by
  unfold Obligations.Subtractions
  rintro s i rd a b
    (⟨rs, rn, rfl, rfl, rfl⟩ | ⟨rs, imm, rfl, rfl, rfl⟩ | ⟨imm, rfl, rfl, rfl⟩ | ⟨rs, rfl, rfl, rfl⟩)
  case inl | inr.inr.inr => exact State.putSum_of (addWithCarry_not_true _ _)
  all_goals
    rw [← immU_eq_ofNat]
    exact State.putSum_of (addWithCarry_not_true _ _)

/-- Settles O33: `AddWithCarry` on the C flag, of the operand and of its complement. -/
theorem carryArithmetic : Obligations.CarryArithmetic := by
  unfold Obligations.CarryArithmetic
  rintro s rd rs a b c rfl rfl hc
  obtain rfl : c = s.flagC.toNat := hc.trans (by cases s.flagC <;> rfl)
  exact ⟨State.putSum_of (addWithCarry_eq _ _ _), State.putSum_of (addWithCarry_not_eq _ _ _)⟩

/-! ### Comparisons -/

/-- In THUMB state R15 reads as the address plus 4 (R29). -/
theorem State.readReg_thumb {s : State} (thumb : s.thumb = true) (i : RegNum) :
    s.readReg i = if i = 15 then s.pc + 4#32 else s.readReg i := by
  split
  case isTrue h => rw [h, show (15 : RegNum) = pcReg from rfl, State.readReg_pcReg, State.readPc, if_pos thumb]
  case isFalse => rfl

theorem hiReg_eq_fifteen (h : BitVec 3) : hiReg h = 15 ↔ h = 7#3 := by
  revert h
  decide

theorem State.readReg_hiReg {s : State} (thumb : s.thumb = true) (h : BitVec 3) :
    s.readReg (hiReg h) = if h = 7#3 then s.pc + 4#32 else s.readReg (hiReg h) := by
  rw [← if_congr (hiReg_eq_fifteen h) rfl rfl]
  exact State.readReg_thumb thumb _

/-- Settles O34: a comparison is a difference whose result is dropped, CMN a sum. -/
theorem comparisons : Obligations.Comparisons := by
  unfold Obligations.Comparisons
  intro s i a b
  constructor
  · rintro (⟨rd, imm, rfl, rfl, rfl⟩ | ⟨rd, rs, rfl, rfl, rfl⟩ | ⟨rd, hs, rfl, thumb, rfl, rfl⟩ |
      ⟨hd, rs, rfl, thumb, rfl, rfl⟩ | ⟨hd, hs, rfl, thumb, rfl, rfl⟩)
    · rw [← immU_eq_ofNat]
      exact State.compareSum_of (addWithCarry_not_true _ _)
    · exact State.compareSum_of (addWithCarry_not_true _ _)
    all_goals
      simp only [← State.readReg_hiReg thumb]
      exact State.compareSum_of (addWithCarry_not_true _ _)
  · rintro rd rs rfl rfl rfl
    exact State.compareSum_of (addWithCarry_false _ _)

/-- After a comparison N differs from V exactly where the first operand is the lower, both signed (R42). -/
theorem sign_bne_overflows (a b : Word) :
    (decide ((a - b).toInt < 0) != overflows (a.toInt - b.toInt)) = decide (a.toInt < b.toInt) := by
  have ha := BitVec.le_toInt a
  have ha' := BitVec.toInt_lt (x := a)
  have hb := BitVec.le_toInt b
  have hb' := BitVec.toInt_lt (x := b)
  rw [BitVec.toInt_sub, overflows, Int.bmod_def]
  grind

theorem sub_eq_zero_word (a b : Word) : a - b = 0#32 ↔ a = b := by
  constructor <;> intro h <;> bv_omega

/-- Settles O35: R42's table on the flags of the comparison (R40). -/
theorem comparisonReadings : Obligations.ComparisonReadings := by
  unfold Obligations.ComparisonReadings
  rintro s rd rs a b rfl rfl
  obtain ⟨t, next, result⟩ := s.compareSum_of (addWithCarry_not_true (s.readReg (loReg rd)) (s.readReg (loReg rs)))
  refine ⟨t, next, ?_⟩
  obtain ⟨n, z, c, v⟩ := result.flags
  generalize s.readReg (loReg rd) = a at *
  generalize s.readReg (loReg rs) = b at *
  have lower := sign_bne_overflows a b
  have notLower : (decide ((a - b).toInt < 0) == overflows (a.toInt - b.toInt)) = decide (b.toInt ≤ a.toInt) := by
    have notLower := congrArg not lower
    rwa [bne, Bool.not_not, ← decide_not, decide_eq_decide.mpr Int.not_lt] at notLower
  have eq_toInt : a.toInt = b.toInt ↔ a = b := BitVec.toInt_inj
  have eq_toNat : a.toNat = b.toNat ↔ a = b := BitVec.toNat_inj
  simp only [State.condPassed, condHolds, n, z, c, v, sub_eq_zero_word, lower, notLower, ← decide_not, ← Bool.decide_and,
    ← Bool.decide_or, decide_eq_decide, true_and, Nat.not_le, Int.not_lt]
  refine ⟨?_, ?_, ?_, ?_⟩
  case refine_1 | refine_2 => rw [← eq_toNat]; omega
  case refine_3 | refine_4 => rw [← eq_toInt]; omega

/-! ### Logic, moves, multiplication -/

/-- Settles O36: the shared ending of the logical operations; TST has the same flags and writes no register. -/
theorem logicAndMoves : Obligations.LogicAndMoves := by
  unfold Obligations.LogicAndMoves
  rintro s rd rs x y rfl rfl
  refine ⟨fun imm => ?_, s.putLogical_result rd _, s.putLogical_result rd _, s.putLogical_result rd _,
    s.putLogical_result rd _, s.putLogical_result rd _, ?_⟩
  · rw [← immU_eq_ofNat]
    exact s.putLogical_result rd _
  · refine ⟨_, rfl, s.flagResult_of_bits _ _ _ _ ?_ (fun j hj => ?_) ?_ ?_ ?_ ?_⟩
    · rfl
    all_goals
      simp only [State.setNZ, State.advanceThumb]
      repeat rw [getLsbD_putBit _ _ _ _ (by omega)]
    · rw [if_neg (by omega), if_neg (by omega)]
    all_goals simp
    all_goals rfl

/-! The count of the free values drawn is no part of these frames. -/

theorem State.SameSaved.redrawn {s t : State} (h : s.SameSaved t) (n : Nat) : s.SameSaved { t with draws := n } :=
  ⟨h.fiq, h.irq, h.svc, h.abt, h.und⟩

theorem State.SameControl.redrawn {s t : State} (h : s.SameControl t) (n : Nat) : s.SameControl { t with draws := n } :=
  ⟨h.i, h.f, h.m, h.reserved⟩

theorem State.SameInputs.redrawn {s t : State} (h : s.SameInputs t) (n : Nat) : s.SameInputs { t with draws := n } :=
  ⟨h.lines, h.upcoming, h.masters, h.resetting, h.memoryMap, h.bigend, h.unallocTraps⟩

/-- Settles O37: but for the count of free values MUL ends as a shift does, with a free value for C. -/
theorem multiplication : Obligations.Multiplication := by
  unfold Obligations.Multiplication
  rintro s rd rs r hr
  obtain rfl : r = s.readReg (loReg rs) * s.readReg (loReg rd) :=
    hr.trans (BitVec.eq_of_toNat_eq (by rw [BitVec.toNat_ofNat, BitVec.toNat_mul]))
  obtain ⟨t, next, result⟩ :=
    s.putShifted_result rd ⟨s.readReg (loReg rs) * s.readReg (loReg rd), Config.mulCarry s.draws⟩
  cases next
  obtain ⟨value, flags, state, pc, keeps, memory⟩ := result
  exact ⟨_, rfl, value, flags.n, flags.z, flags.v, state, pc, keeps.regs, keeps.saved.redrawn _, keeps.control.redrawn _,
    keeps.inputs.redrawn _, ⟨memory.bytes, memory.stored⟩⟩

end Sys2Proof.Machine
end

section
/-! PROOFS. Registers of another mode, loads that read back a store, formats 3 and 5 to 7 as far as they move values and control,
branches of both states, and the loop in which a run ends. -/

namespace Sys2Proof.Machine

variable {s t : State}

/-! ### Registers and memory, read after a write (R23, R64) -/

/-- Settles O13: a number reads the physical register that the mode gives it (`State.getPhys_writeReg`). -/
theorem bankedWrite : Obligations.BankedWrite := by
  unfold Obligations.BankedWrite
  intro s m i j v hi hj
  refine ⟨s.readReg_writeReg_self v hi, ?_⟩
  have mode (u : State) : ({ u with cpsr := putM s.cpsr m.bits }).mode = some m := by
    simp only [State.mode, State.modeBits, psrM_putM, Mode.ofBits_bits]
  cases hp : phys (some m) j with
  | none => exact absurd (phys_eq_none.mp hp) hj
  | some p =>
    rw [State.readReg_of_phys _ ((mode (s.writeReg i v)).symm ▸ hp), State.readReg_of_phys _ ((mode s).symm ▸ hp)]
    exact (s.getPhys_writeReg i v p).trans (if_congr eq_comm rfl rfl)

/-- The low bits of a word, as a mask keeps them. -/
theorem setWidth_setWidth_eq_and (v : Word) (n : Nat) :
    (v.setWidth n).setWidth 32 = v &&& BitVec.ofNat 32 (2 ^ n - 1) := by
  apply BitVec.eq_of_getLsbD_eq
  intro i hi
  rw [BitVec.getLsbD_setWidth, BitVec.getLsbD_setWidth, BitVec.getLsbD_and, BitVec.getLsbD_ofNat,
    Nat.testBit_two_pow_sub_one, decide_eq_true hi, Bool.true_and, Bool.true_and, Bool.and_comm]

/-- Settles O15: the bytes by `State.sameMemoryBut_writeMem`. -/
theorem storeThenLoad : Obligations.StoreThenLoad := by
  unfold Obligations.StoreThenLoad
  intro s z a v
  refine ⟨?_, s.sameMemoryBut_writeMem z a v⟩
  cases z with
  | byte =>
    rw [← setWidth_setWidth_eq_and v]
    exact State.readMem_byte ((s.readByte_writeByte a a _).trans (if_pos rfl))
  | half =>
    rw [← setWidth_setWidth_eq_and v]
    exact State.readMem_half (s.readHalf_writeHalf a _)
  | word =>
    show _ = some (v &&& BitVec.ofNat 32 (2 ^ 32 - 1))
    rw [← setWidth_setWidth_eq_and v, BitVec.setWidth_eq, BitVec.setWidth_eq]
    exact s.readWord_writeWord a v

/-- Settles O42: LDRB is a single load that goes through (`State.LoadForm.plainResult`). -/
theorem byteLoads : Obligations.ByteLoads := by
  unfold Obligations.ByteLoads
  intro s rd rb ro off a b noAbort noDevice held
  rw [BitVec.ofNat_toNat]
  constructor <;> rintro rfl
  · exact (State.LoadForm.ldrbReg rd rb ro).plainResult (Nat.mod_one _) noAbort noDevice (State.readMem_byte held)
  · exact (State.LoadForm.ldrbImm rd rb off).plainResult (Nat.mod_one _) noAbort noDevice (State.readMem_byte held)

/-! ### Transfers of control -/

/-- T written and the PC put somewhere: nothing else is changed. -/
theorem State.jumped_setT (s : State) (thumb : Bool) (a : Word) : s.Jumped { s.setT thumb with pc := a } a thumb [] := by
  have bits (j : Nat) (h5 : j ≠ 5) : (s.setT thumb).cpsr.getLsbD j = s.cpsr.getLsbD j := by
    rw [State.setT, getLsbD_putBit _ _ _ _ (by decide), if_neg h5]
  obtain ⟨keeps, memory⟩ := State.keepsBut_nil (s := s) (t := { s.setT thumb with pc := a }) (fun j _ h5 => bits j h5) rfl
  exact ⟨rfl, s.setT_thumb thumb, ⟨bits 31 (by decide), bits 30 (by decide), bits 29 (by decide), bits 28 (by decide)⟩,
    keeps, memory⟩

/-- A register written and the PC put somewhere: nothing else is changed. -/
theorem State.jumped_writeReg (s : State) (d : RegNum) (v a : Word) :
    s.Jumped { s.writeReg d v with pc := a } a s.thumb (s.named [d]) := by
  have cpsr : ({ s.writeReg d v with pc := a } : State).cpsr = s.cpsr := s.writeReg_cpsr d v
  obtain ⟨keeps, memory⟩ := State.keepsBut_writeReg (s := s) (t := { s.writeReg d v with pc := a }) d v
    (fun _ _ _ => by rw [cpsr]) rfl
  exact ⟨rfl, s.writeReg_thumb d v, State.sameFlags_of_cpsr cpsr, keeps, memory⟩

/-- Settles O38: a result for R15 is a control transfer in THUMB state (R195), any other goes past the instruction. -/
theorem hiAddAndMov : Obligations.HiAddAndMov := by
  unfold Obligations.HiAddAndMov
  constructor
  · intro d s
    obtain ⟨addRdHs, addHdRs, addHdHs, -, -, -, movRdHs, movHdRs, movHdHs⟩ := decodeThumb_hiReg d s
    exact ⟨addRdHs, addHdRs, addHdHs, movRdHs, movHdRs, movHdHs⟩
  · intro s add mov d src a b thumb forms ha hb
    obtain ⟨hadd, hmov⟩ : exec add s = s.hiAdd d src ∧ exec mov s = s.hiMov d src := by
      rcases forms with ⟨rd, hs, rfl, rfl, rfl, rfl⟩ | ⟨hd, rs, rfl, rfl, rfl, rfl⟩ | ⟨hd, hs, rfl, rfl, rfl, rfl⟩ <;>
        exact ⟨rfl, rfl⟩
    rw [← State.readReg_thumb thumb] at ha hb
    rw [hadd, hmov, State.hiAdd, State.hiMov, ← ha, ← hb]
    constructor
    · intro hd
      rw [if_neg (show d ≠ pcReg from hd), if_neg (show d ≠ pcReg from hd)]
      exact ⟨⟨_, rfl, s.plainResult_writeReg_advanceThumb _ hd⟩, ⟨_, rfl, s.plainResult_writeReg_advanceThumb _ hd⟩⟩
    · rintro rfl
      have jump (v : Word) : s.Jumped (s.writeReg 15 v) (v &&& 0xFFFFFFFE#32) true [] := by
        rw [show (15 : RegNum) = pcReg from rfl, State.writeReg_pcReg, State.branch, if_pos thumb]
        exact thumb ▸ s.jumped_pc _
      exact ⟨⟨_, rfl, jump _⟩, ⟨_, rfl, jump _⟩⟩

/-- What BX does at each kind of address (R194, R283). -/
theorem State.branchExchange_result (s : State) (x : Word) :
    (x.getLsbD 0 = true → ∃ t, s.branchExchange x = .next t ∧ s.Jumped t (x &&& 0xFFFFFFFE#32) true []) ∧
    (x.getLsbD 0 = false → x.getLsbD 1 = false → ∃ t, s.branchExchange x = .next t ∧ s.Jumped t x false []) ∧
    (x.getLsbD 0 = false → x.getLsbD 1 = true → s.branchExchange x = .refused (.bxMisaligned x)) := by
  unfold State.branchExchange
  refine ⟨fun h0 => ?_, fun h0 h1 => ?_, fun h0 h1 => ?_⟩
  · rw [if_pos h0]
    exact ⟨_, rfl, s.jumped_setT true _⟩
  · rw [h0, h1, if_neg Bool.false_ne_true, if_neg Bool.false_ne_true]
    exact ⟨_, rfl, s.jumped_setT false x⟩
  · rw [h0, if_neg Bool.false_ne_true, if_pos h1]

/-- Settles O39: each form is the exchange at its operand. -/
theorem branchExchange : Obligations.BranchExchange := by
  unfold Obligations.BranchExchange
  intro s i x forms
  suffices exec_eq : exec i s = s.branchExchange x by
    rw [exec_eq]
    exact s.branchExchange_result x
  rcases forms with ⟨rs, rfl, rfl⟩ | ⟨hs, rfl, thumb, rfl⟩ | ⟨cond, rn, rfl, passed, rfl⟩
  · rfl
  · rw [← State.readReg_hiReg thumb]
    rfl
  · have armPc : armReg rn = pcReg ↔ rn = 15#4 := by revert rn; decide
    rw [← if_congr armPc rfl rfl]
    exact State.whenPassed_of_passed passed _

/-- Settles O57: the first half is `execBlHigh_plainResult`; the second writes LR and jumps. -/
theorem branchLinkHalves : Obligations.BranchLinkHalves := by
  unfold Obligations.BranchLinkHalves
  refine ⟨fun off => ⟨decodeThumb_blHigh off, decodeThumb_blLow off⟩, fun s off => ⟨?_, ?_⟩⟩
  · rw [← immS12_eq_ofInt]
    exact execBlHigh_plainResult s off
  · rw [← immU2_eq_ofNat]
    exact ⟨_, rfl, s.readReg_writeReg_self _ lrReg_ne_pcReg, s.jumped_writeReg lrReg _ _⟩

/-- The signed offset in words, times 4 (R288). -/
theorem immS4_eq_ofInt {n : Nat} (off : BitVec n) : immS4 off = BitVec.ofInt 32 (4 * off.toInt) := by
  rw [BitVec.ofInt_mul, BitVec.mul_comm]
  exact BitVec.shiftLeft_eq_mul_twoPow _ 2

/-- Dropping bits [1:0] keeps a word-aligned address. -/
theorem and_not_three_of_aligned {a : Word} (h : a.getLsbD 0 = false ∧ a.getLsbD 1 = false) : a &&& ~~~3#32 = a := by
  have bits (j : Nat) : (3#32).getLsbD j = decide (j < 2) := by
    by_cases hj : j < 32
    · rw [BitVec.getLsbD_ofNat, show 3 = 2 ^ 2 - 1 from rfl, Nat.testBit_two_pow_sub_one]
      simp [hj]
    · simp [show ¬ j < 2 by omega, BitVec.getLsbD_of_ge 3#32 j (by omega)]
  obtain ⟨h0, h1⟩ := h
  apply BitVec.eq_of_getLsbD_eq
  intro j hj
  rw [BitVec.getLsbD_and, BitVec.getLsbD_not, bits]
  match j with
  | 0 => rw [h0, Bool.false_and]
  | 1 => rw [h1, Bool.false_and]
  | j + 2 => simp [hj]

/-- From a word-aligned PC, dropping bits [1:0] does not change the target of an ARM branch. -/
theorem State.armTarget_aligned (aligned : s.pc.getLsbD 0 = false ∧ s.pc.getLsbD 1 = false) (off : BitVec 24) :
    s.armTarget off &&& ~~~3#32 = s.pc + 8#32 + BitVec.ofInt 32 (4 * off.toInt) := by
  have offset : (immS4 off).toNat % 4 = 0 := by
    rw [immS4, BitVec.toNat_shiftLeft, Nat.shiftLeft_eq]
    omega
  have target : (s.armTarget off).getLsbD 0 = false ∧ (s.armTarget off).getLsbD 1 = false := by
    rw [low_bits_zero_iff] at aligned ⊢
    rw [State.armTarget]
    bv_omega
  rw [and_not_three_of_aligned target, State.armTarget, immS4_eq_ofInt]

/-- nEXEC of an ARM instruction is HIGH exactly where its condition fails (R282). -/
theorem State.pinNEXEC_of_cond {i : Instr} {cond : BitVec 4} (h : condOf i = some cond) :
    s.pinNEXEC i = !s.condPassed cond := by
  rw [State.pinNEXEC, h]

/-- Settles O59: from a word-aligned PC the target is aligned (`State.armTarget_aligned`). -/
theorem armBranches : Obligations.ArmBranches := by
  unfold Obligations.ArmBranches
  intro s cond off passed h0 h1
  have nexec {i : Instr} (h : condOf i = some cond) : s.pinNEXEC i = false := by
    rw [State.pinNEXEC_of_cond h, passed]
    rfl
  refine ⟨?_, ?_, ?_, nexec rfl, nexec rfl, nexec rfl⟩
  · exact ⟨_, State.whenPassed_of_passed passed _, s.armTarget_aligned ⟨h0, h1⟩ off ▸ s.jumped_pc _⟩
  · exact ⟨_, State.whenPassed_of_passed passed _, s.readReg_writeReg_self _ lrReg_ne_pcReg,
      s.armTarget_aligned ⟨h0, h1⟩ off ▸ s.jumped_writeReg lrReg _ _⟩
  · exact ⟨_, State.whenPassed_of_passed passed _, s.jumped_pc _⟩

/-- Each instruction of the ARM subset stands under its condition (R282). -/
theorem exec_of_condition_fails {i : Instr} {cond : BitVec 4} (arm : i.isThumb = false) (h : condOf i = some cond)
    (failed : s.condPassed cond = false) : exec i s = .next s.advanceArm := by
  cases i <;> cases arm <;> cases h <;> exact if_neg (Bool.eq_false_iff.mp failed)

/-- Settles O60: each instruction of the subset stands under its condition (`exec_of_condition_fails`). -/
theorem armConditionFails : Obligations.ArmConditionFails := by
  unfold Obligations.ArmConditionFails
  intro s cond rn off i failed member
  obtain ⟨arm, h⟩ : i.isThumb = false ∧ condOf i = some cond := by
    simp only [List.mem_cons, List.not_mem_nil, or_false] at member
    rcases member with rfl | rfl | rfl | rfl | rfl | rfl | rfl | rfl <;> exact ⟨rfl, rfl⟩
  refine ⟨⟨_, exec_of_condition_fails arm h failed, s.jumped_pc _⟩, ?_⟩
  rw [State.pinNEXEC_of_cond h, failed]
  rfl

/-! ### The branch to itself, where a run ends (R272, R367) -/

theorem State.idle_of_run {i : Instr} (run : s.nextEvent = .run i) (self : exec i s.midBus = .next s.midBus) :
    s.idle = true := by
  rw [State.idle, run]
  exact decide_eq_true (congrArg nextState? self)

theorem State.not_idle (h : ∀ i, s.nextEvent ≠ .run i) : s.idle = false := by
  unfold State.idle
  split
  case h_1 i run => exact absurd run (h i)
  case h_2 => rfl

theorem State.idleFor_succ (n : Nat) (s : State) :
    State.idleFor (n + 1) s = true ↔ s.idle = true ∧ State.idleFor n s.midBus.endStep = true := by
  rw [State.idleFor, Bool.and_eq_true]

theorem State.idleFor_idle {n : Nat} (h : State.idleFor n s = true) : s.idle = true := by
  cases n with
  | zero => exact h
  | succ n => exact ((State.idleFor_succ n s).mp h).1

theorem State.idleFor_mono {m n : Nat} (hmn : m ≤ n) (h : State.idleFor n s = true) : State.idleFor m s = true := by
  induction m generalizing s n with
  | zero => exact State.idleFor_idle h
  | succ m ih =>
    obtain ⟨n, rfl⟩ : ∃ k, n = k + 1 := ⟨n - 1, by omega⟩
    obtain ⟨idle, rest⟩ := (State.idleFor_succ n s).mp h
    exact (State.idleFor_succ m s).mpr ⟨idle, ih (by omega) rest⟩

/-- With no input left to come, the end of an idle step changes nothing, but that the step was not one of a reset. -/
theorem State.midBus_endStep_of_quiet (upcoming : s.upcoming = []) (masters : s.masters = []) :
    s.midBus.endStep = { s with resetting := s.lines.reset } := by
  cases s
  cases upcoming
  cases masters
  rfl

/-- The machine stands, undisturbed, at a branch to itself that the program has not stored. -/
structure State.Loops (s : State) : Prop where
  undisturbed : s.Undisturbed
  state : s.thumb = true
  even : s.pc.getLsbD 0 = false
  code : s.readHalf s.pc = some 0xE7FE#16
  notStored : s.pc.toNat ∉ s.stored ∧ (s.pc + 1#32).toNat ∉ s.stored

theorem decodeThumb_branchToSelf : decodeThumb 0xE7FE#16 = .b 0x7FE#11 := by decide

/-- Its target is its own address. -/
theorem State.branchToSelf_target (even : s.pc.getLsbD 0 = false) : s.branchTarget 0x7FE#11 &&& ~~~1#32 = s.pc := by
  have offset : BitVec.ofInt 32 (2 * (0x7FE#11).toInt) = -4#32 := by decide
  rw [State.branchTarget_even even, offset]
  bv_omega

theorem State.exec_branchToSelf (even : s.pc.getLsbD 0 = false) : exec (.b 0x7FE#11) s = .next s := by
  show Host.Outcome.next { s with pc := s.branchTarget 0x7FE#11 &&& ~~~1#32 } = _
  rw [State.branchToSelf_target even]

theorem State.Loops.idle (h : s.Loops) : s.idle = true := by
  obtain ⟨undisturbed, state, even, code, stored0, stored1⟩ := h
  refine State.idle_of_run (i := .b 0x7FE#11) ?_ (State.exec_branchToSelf (s := s.midBus) even)
  rw [State.nextEvent, undisturbed.noReset, if_neg Bool.false_ne_true]
  refine undisturbed.workEvent_run (State.fetchCode_thumb state code) (fun k hk => ?_)
    (congrArg Except.ok decodeThumb_branchToSelf)
  rw [state, if_pos rfl] at hk
  match k with
  | 0 => rwa [BitVec.add_zero]
  | 1 => exact stored1

theorem State.Loops.congr_resetting (h : s.Loops) (r : Bool) : ({ s with resetting := r }).Loops :=
  ⟨⟨h.undisturbed.noReset, h.undisturbed.legal, h.undisturbed.noFiq, h.undisturbed.noIrq, h.undisturbed.noAbort,
    h.undisturbed.noDevice⟩, h.state, h.even, h.code, h.notStored⟩

/-- The run has ended at a branch to itself where nothing is left to come. -/
theorem State.Loops.ended (h : s.Loops) (upcoming : s.upcoming = []) (masters : s.masters = []) : s.ended = true := by
  have horizon : s.horizon = 0 := by rw [State.horizon, upcoming, masters]; rfl
  rw [State.ended, horizon, State.idleFor_succ, State.midBus_endStep_of_quiet upcoming masters]
  exact ⟨h.idle, (h.congr_resetting _).idle⟩

theorem State.run_of_ended (h : s.ended = true) (n : Nat) : s.run n = .ended s := by
  cases n with
  | zero => exact if_pos h
  | succ n => exact if_pos h

/-- With an enabled interrupt asserted the machine is not idle. -/
theorem State.not_idle_of_interrupt
    (h : s.lines.irq = true ∧ s.irqMasked = false ∨ s.lines.fiq = true ∧ s.fiqMasked = false) :
    s.idle = false := by
  refine State.not_idle fun i run => ?_
  rw [State.nextEvent] at run
  split at run
  · cases run
  · by_cases legal : s.mode = none
    · rw [State.workEvent_stuck legal] at run
      cases run
    · by_cases fiq : s.lines.fiq = true ∧ s.fiqMasked = false
      · rw [State.workEvent_fiq legal fiq.1 fiq.2] at run
        cases run
      · obtain ⟨irq, enabled⟩ := h.resolve_right fiq
        rw [State.workEvent_irq legal (by simpa [or_iff_not_imp_left] using fiq) irq enabled] at run
        cases run

/-- What an idle step leaves as it was. -/
theorem State.idle_step (idle : s.idle = true) : ∃ t, step s = .next t ∧ t = s.midBus.endStep ∧ t.pc = s.pc ∧
    t.cpsr = s.cpsr ∧ s.SameRegsBut t [] ∧ s.SameSaved t ∧ s.MastersMemory t ∧ s.NextInputs t :=
  ⟨_, State.step_of_idle s idle, rfl, s.midBus.endStep_pc, s.midBus.endStep_cpsr, fun p _ => State.getPhys_endStep .., by
    constructor <;> simp, (State.SameMemory.refl s.midBus).endStep rfl, s.sameInputs_midBus.endStep⟩

/-- Once a run has ended it stays ended: where nothing is left to come, the next boundary is like this one. -/
theorem State.ended_endStep (h : s.ended = true) : s.midBus.endStep.ended = true := by
  obtain ⟨idle, rest⟩ := (State.idleFor_succ s.horizon s).mp h
  by_cases quiet : s.upcoming = [] ∧ s.masters = []
  · obtain ⟨upcoming, masters⟩ := quiet
    have horizon : s.horizon = 0 := by rw [State.horizon, upcoming, masters]; rfl
    have again := State.midBus_endStep_of_quiet (s := { s with resetting := s.lines.reset }) upcoming masters
    rw [horizon, State.midBus_endStep_of_quiet upcoming masters] at rest
    rw [State.midBus_endStep_of_quiet upcoming masters, State.ended,
      show ({ s with resetting := s.lines.reset } : State).horizon = 0 from horizon, State.idleFor_succ, again]
    exact ⟨rest, rest⟩
  · refine State.idleFor_mono ?_ rest
    have fewer : s.upcoming.tail.length + s.masters.tail.length < s.upcoming.length + s.masters.length := by
      simp only [List.length_tail]
      rcases not_and_or.mp quiet with more | more <;> have := List.length_pos_iff.mpr more <;> omega
    simpa [State.horizon] using fewer

/-- Settles O56: a branch to itself leaves the whole machine as it is, so the machine is idle there (`State.Loops.idle`), and an
idle machine stays so as long as the host gives nothing new. -/
theorem unconditionalBranch : Obligations.UnconditionalBranch := by
  unfold Obligations.UnconditionalBranch
  refine ⟨fun off => (decodeThumb_b_unallocE8 off).1, fun s off even => ⟨?_, ?_, ?_, ?_⟩⟩
  · exact ⟨_, rfl, State.branchTarget_even even off ▸ s.jumped_pc _⟩
  · rw [decodeThumb_branchToSelf, State.exec_branchToSelf even]
    exact ⟨s, rfl, s.jumped_pc s.pc⟩
  · intro undisturbed thumb code stored0 stored1
    have loops : s.Loops := ⟨undisturbed, thumb, even, code, stored0, stored1⟩
    obtain ⟨t, next, -, kept⟩ := State.idle_step loops.idle
    refine ⟨loops.idle, ⟨t, next, kept⟩, fun upcoming masters => State.run_of_ended (loops.ended upcoming masters),
      fun l enabled => ?_⟩
    rw [State.ended, State.idleFor, State.not_idle_of_interrupt enabled, Bool.false_and]
  · intro ended
    obtain ⟨t, next, rfl, pc, cpsr, regs, saved, -⟩ := State.idle_step (State.idleFor_idle ended)
    exact ⟨_, next, State.ended_endStep ended, pc, cpsr, regs, saved⟩

end Sys2Proof.Machine
end

section
/-! PROOFS. Where a single transfer does not go through: a misaligned address, an abort, a device, ROM, a byte without a value
(R67, R200, R313, R314, D11, D22). -/

namespace Sys2Proof.Machine

variable {s : State} {i : Instr} {rd : BitVec 3} {z : Size} {a : Word} {f : Word → Word}

/-- An access outside the memory map is aborted (D22). -/
theorem State.aborts_of_outside {k : AccessKind} (h : s.aborts k z a = true ∨ s.outside z a = true) :
    s.aborts k z a = true := by
  rcases h with h | h
  · exact h
  · rw [State.aborts, h, Bool.true_or]

theorem aligned_eq_false (h : a.toNat % z.bytes ≠ 0) : aligned z a = false :=
  Bool.eq_false_iff.mpr fun isAligned => h (aligned_eq_true.mp isAligned)

theorem State.load_misaligned (k : Word → State) (h : a.toNat % z.bytes ≠ 0) : s.load z a k = .refused (.misaligned a) := by
  rw [State.load, aligned_eq_false h, if_neg Bool.false_ne_true]

theorem State.store_misaligned (v : Word) (h : a.toNat % z.bytes ≠ 0) : s.store z a v = .refused (.misaligned a) := by
  rw [State.store, aligned_eq_false h, if_neg Bool.false_ne_true]

theorem State.load_aborted (k : Word → State) (isAligned : aligned z a = true) (aborted : s.aborts .read z a = true) :
    s.load z a k = .next s.dataAbort := by
  rw [State.load, if_pos isAligned, if_pos aborted]

theorem State.store_aborted (v : Word) (isAligned : aligned z a = true) (aborted : s.aborts .write z a = true) :
    s.store z a v = .next s.dataAbort := by
  rw [State.store, if_pos isAligned, if_pos aborted]

theorem State.load_of_device (k : Word → State) (isAligned : aligned z a = true) (noAbort : s.aborts .read z a = false)
    (device : s.onDevice z a = true) : s.load z a k = .next (k (s.deviceRead z)).drew := by
  rw [State.load, if_pos isAligned, noAbort, if_neg Bool.false_ne_true, if_pos device]

theorem State.load_unwritten (k : Word → State) (isAligned : aligned z a = true) (noAbort : s.aborts .read z a = false)
    (noDevice : s.onDevice z a = false) (unwritten : s.readMem z a = none) : s.load z a k = .fault (.unwritten a) := by
  rw [State.load, if_pos isAligned, noAbort, if_neg Bool.false_ne_true, noDevice, if_neg Bool.false_ne_true, unwritten]

theorem State.store_notRam (v : Word) (isAligned : aligned z a = true) (noAbort : s.aborts .write z a = false)
    (notRam : s.inRam z a = false) : s.store z a v = .next s.advanceThumb := by
  rw [State.store, if_pos isAligned, noAbort, if_neg Bool.false_ne_true, notRam, if_neg Bool.false_ne_true]

/-- A value is missing where one of its bytes is. -/
theorem State.readMem_none {k : Nat} (hk : k < z.bytes) (h : s.readByte (a + BitVec.ofNat 32 k) = none) :
    s.readMem z a = none := by
  cases z with
  | byte =>
    obtain rfl : k = 0 := by simp only [Size.bytes] at hk; omega
    rw [BitVec.add_zero] at h
    simp [State.readMem, h]
  | half =>
    match k, hk with
    | 0, _ => rw [BitVec.add_zero] at h; simp [State.readMem, State.readHalf, h]
    | 1, _ => simp [State.readMem, State.readHalf, h]
  | word =>
    match k, hk with
    | 0, _ => rw [BitVec.add_zero] at h; simp [State.readMem, State.readWord, h]
    | 1, _ => simp [State.readMem, State.readWord, h]
    | 2, _ => simp [State.readMem, State.readWord, h]
    | 3, _ => simp [State.readMem, State.readWord, h]

/-- A write of a register number does not look at the count of free values drawn. -/
theorem State.writeReg_redrawn (s : State) (r : RegNum) (v : Word) (n : Nat) :
    ({ s with draws := n }).writeReg r v = { s.writeReg r v with draws := n } := by
  have mode : ({ s with draws := n } : State).mode = s.mode := rfl
  cases hp : phys s.mode r with
  | none =>
    obtain rfl := phys_eq_none.mp hp
    rw [State.writeReg_pcReg, State.writeReg_pcReg, State.branch_eq, State.branch_eq]
    rfl
  | some p => rw [State.writeReg_of_phys _ v (mode.symm ▸ hp), s.writeReg_of_phys v hp]; rfl

/-- What a device answers is loaded as any value is, but that a free value is drawn (log 32). -/
theorem State.drew_plainResult (s : State) (rd : BitVec 3) (v : Word) :
    ({ s with draws := (s.putLoaded rd v).drew.draws }).PlainResult (s.putLoaded rd v).drew (loReg rd) v := by
  refine State.plainResult_writeReg _ _ _ _ (loReg_ne_pcReg rd) ?_
  rw [State.writeReg_redrawn, State.putLoaded, State.drew, State.advanceThumb, State.writeReg_loReg_pc]

/-- Past the instruction with nothing else changed. -/
theorem State.advanceThumb_keeps (s : State) : s.SameMemory s.advanceThumb ∧ s.SameFlags s.advanceThumb ∧
    s.advanceThumb.thumb = s.thumb ∧ s.advanceThumb.pc = s.pc + 2#32 ∧ s.KeepsBut s.advanceThumb [] :=
  have jumped := s.jumped_pc (s.pc + 2#32)
  ⟨jumped.memory, jumped.flags, jumped.state, jumped.pc, jumped.keeps⟩

/-- Settles O45: each form is the load or the store of its address, which asks in turn for alignment, an abort, a device or
ROM, and a value. -/
theorem singleTransferStops : Obligations.SingleTransferStops := by
  unfold Obligations.SingleTransferStops
  intro s i rd z a
  have aborted : s.Entered s.dataAbort .dataAbort (s.pc + 8#32) [] ∧ s.SameMemory s.dataAbort ∧ s.SameInputs s.dataAbort :=
    ⟨s.entered_dataAbort, s.sameMemory_takeException _ _, s.sameInputs_takeException _ _⟩
  constructor
  · intro f form
    rw [form.exec_eq]
    refine ⟨State.load_misaligned _, fun isAligned aborts => ?_, fun isAligned noAbort device => ?_,
      fun isAligned noAbort noDevice k hk unwritten => ?_⟩
    · exact ⟨_, State.load_aborted _ (aligned_eq_true.mpr isAligned) (State.aborts_of_outside aborts), aborted⟩
    · exact ⟨_, Config.deviceData s.draws, State.load_of_device _ (aligned_eq_true.mpr isAligned) noAbort device,
        s.drew_plainResult rd _⟩
    · exact State.load_unwritten _ (aligned_eq_true.mpr isAligned) noAbort noDevice (State.readMem_none hk unwritten)
  · intro form
    rw [form.exec_eq]
    refine ⟨State.store_misaligned _, fun isAligned aborts => ?_, fun isAligned noAbort notRam => ?_⟩
    · exact ⟨_, State.store_aborted _ (aligned_eq_true.mpr isAligned) (State.aborts_of_outside aborts), aborted⟩
    · exact ⟨_, State.store_notRam _ (aligned_eq_true.mpr isAligned) noAbort notRam, s.advanceThumb_keeps⟩

end Sys2Proof.Machine
end

section
/-! PROOFS. The lists of a block transfer, its stores, and where it is refused (R240 to R245, R248, R250). -/

namespace Sys2Proof.Machine

/-! ### Register lists (R240, R241) -/

theorem mem_regList {rlist : BitVec 8} {i : RegNum} : i ∈ regList rlist ↔ i.val < 8 ∧ rlist.getLsbD i.val = true := by
  have lo : i ∈ ([0, 1, 2, 3, 4, 5, 6, 7] : List RegNum) ↔ i.val < 8 := by revert i; decide
  rw [regList, List.mem_filter, lo]

theorem regList_sorted (rlist : BitVec 8) : (regList rlist).Pairwise (· < ·) :=
  List.Pairwise.filter _ (by decide)

theorem regList_length (rlist : BitVec 8) : (regList rlist).length ≤ 8 := List.length_filter_le _ _

/-- Settles O47: the list is a filter of the Lo registers in rising order. -/
theorem registerList : Obligations.RegisterList := by
  unfold Obligations.RegisterList
  exact fun rlist => ⟨regList_sorted rlist, fun i => mem_regList⟩

theorem regList_nodup (rlist : BitVec 8) : (regList rlist).Nodup :=
  (regList_sorted rlist).imp fun h => Fin.ne_of_lt h

theorem not_mem_regList {rlist : BitVec 8} {i : RegNum} (h : 8 ≤ i.val) : i ∉ regList rlist := fun member =>
  absurd (mem_regList.mp member).1 (Nat.not_lt.mpr h)

theorem loReg_not_mem_regList {rlist : BitVec 8} {rb : BitVec 3} (notIn : rlist.getLsbD rb.toNat = false) :
    loReg rb ∉ regList rlist := fun member =>
  Bool.false_ne_true (notIn.symm.trans (mem_regList.mp member).2)

theorem regList_append_nodup {rlist : BitVec 8} {i : RegNum} (h : 8 ≤ i.val) : (regList rlist ++ [i]).Nodup :=
  List.nodup_append'.mpr ⟨regList_nodup rlist, List.nodup_singleton i,
    List.disjoint_singleton.mpr (not_mem_regList h)⟩

/-- What the forms of a block transfer have in common of their list and their base register. -/
structure BlockList (regs : List RegNum) (base : RegNum) : Prop where
  nodup : regs.Nodup
  length : regs.length ≤ 9
  notBase : base ∉ regs
  base_ne_pc : base ≠ pcReg
  base_ne_lr : base ≠ lrReg

theorem loReg_ne_lrReg (rb : BitVec 3) : loReg rb ≠ lrReg := by revert rb; decide

/-- A list of Lo registers with SP for the base. -/
theorem BlockList.of_regList (rlist : BitVec 8) : BlockList (regList rlist) spReg :=
  ⟨regList_nodup rlist, Nat.le_succ_of_le (regList_length rlist), not_mem_regList (by decide), by decide, by decide⟩

/-- A list of Lo registers with one of them for the base. -/
theorem BlockList.of_notIn {rlist : BitVec 8} {rb : BitVec 3} (notIn : rlist.getLsbD rb.toNat = false) :
    BlockList (regList rlist) (loReg rb) :=
  ⟨regList_nodup rlist, Nat.le_succ_of_le (regList_length rlist), loReg_not_mem_regList notIn, loReg_ne_pcReg rb,
    loReg_ne_lrReg rb⟩

/-- A list of Lo registers and LR or the PC, with SP for the base. -/
theorem BlockList.of_append (rlist : BitVec 8) {i : RegNum} (h : 14 ≤ i.val) : BlockList (regList rlist ++ [i]) spReg where
  nodup := regList_append_nodup (by omega)
  length := by simpa using Nat.lt_succ_of_le (regList_length rlist)
  notBase member := by
    rcases List.mem_append.mp member with member | member
    · exact not_mem_regList (by decide) member
    · obtain rfl := List.mem_singleton.mp member
      exact absurd h (by decide)
  base_ne_pc := by decide
  base_ne_lr := by decide

variable {s t : State} {i : Instr} {regs : List RegNum} {start final : Word} {base : RegNum}

theorem State.BlockStoreForm.list (form : s.BlockStoreForm i regs start base final) : BlockList regs base := by
  cases form with
  | push rlist => exact .of_regList rlist
  | pushLr rlist => exact .of_append rlist (i := lrReg) (by decide)
  | stmia rb rlist notIn => exact .of_notIn notIn

theorem State.BlockLoadForm.list (form : s.BlockLoadForm i regs start base final) : BlockList regs base := by
  cases form with
  | pop rlist => exact .of_regList rlist
  | popPc rlist => exact .of_append rlist (i := pcReg) (by decide)
  | ldmia rb rlist notIn => exact .of_notIn notIn

/-- An instruction of the block stores is the block store its form names. -/
theorem State.BlockStoreForm.exec_eq (form : s.BlockStoreForm i regs start base final) :
    exec i s = s.blockStore regs start base final := by
  cases form with
  | push rlist => rfl
  | pushLr rlist =>
    show s.pushRegs _ = _
    rw [State.pushRegs, listBytes, List.length_append]
    rfl
  | stmia rb rlist notIn =>
    show execStmia rb rlist s = _
    rw [execStmia, notIn, if_neg Bool.false_ne_true]
    rfl

/-- An instruction of the block loads is the block load its form names. -/
theorem State.BlockLoadForm.exec_eq (form : s.BlockLoadForm i regs start base final) :
    exec i s = s.blockLoad regs start base final := by
  cases form with
  | pop rlist => rfl
  | popPc rlist =>
    show s.popRegs _ = _
    rw [State.popRegs, listBytes, List.length_append]
    rfl
  | ldmia rb rlist notIn =>
    show execLdmia rb rlist s = _
    rw [execLdmia, notIn, if_neg Bool.false_ne_true]
    rfl

/-! ### Where a block transfer is refused (R242, R243, R250) -/

theorem isEmpty_eq_false (h : regs ≠ []) : regs.isEmpty = false := by
  simpa using h

theorem State.blockStore_aligned (nonempty : regs ≠ []) (isAligned : aligned .word start = true) :
    s.blockStore regs start base final =
      if (s.storeMany regs start).2 then .next ((s.storeMany regs start).1.writeReg base final).dataAbort
      else .next ((s.storeMany regs start).1.writeReg base final).advanceThumb := by
  rw [State.blockStore, isEmpty_eq_false nonempty, if_neg Bool.false_ne_true, if_pos isAligned]

theorem State.blockStore_misaligned (nonempty : regs ≠ []) (h : aligned .word start = false) :
    s.blockStore regs start base final = .refused (.misaligned start) := by
  rw [State.blockStore, isEmpty_eq_false nonempty, if_neg Bool.false_ne_true, h, if_neg Bool.false_ne_true]

theorem State.blockLoad_misaligned (nonempty : regs ≠ []) (h : aligned .word start = false) :
    s.blockLoad regs start base final = .refused (.misaligned start) := by
  rw [State.blockLoad, isEmpty_eq_false nonempty, if_neg Bool.false_ne_true, h, if_neg Bool.false_ne_true]

/-- Settles O51: each form is one block transfer, which asks for the list, then for the alignment. -/
theorem blockTransferRefused : Obligations.BlockTransferRefused := by
  unfold Obligations.BlockTransferRefused
  intro s
  refine ⟨rfl, rfl, fun rb => ?_, fun rb rlist isIn => ⟨if_pos isIn, if_pos isIn⟩, ?_⟩
  · have notIn : (0#8).getLsbD rb.toNat = false := BitVec.getLsbD_zero
    exact ⟨if_neg (Bool.eq_false_iff.mp notIn), if_neg (Bool.eq_false_iff.mp notIn)⟩
  · rintro i regs start base final (form | form) nonempty misaligned
    · rw [form.exec_eq, State.blockStore_misaligned nonempty (aligned_eq_false misaligned)]
    · rw [form.exec_eq, State.blockLoad_misaligned nonempty (aligned_eq_false misaligned)]

/-! ### The stores of a block store -/

/-- One store of a block store (R244): nothing where it is aborted, or where no RAM stands. -/
def State.storeOne (s : State) (r : RegNum) (a : Word) : State :=
  if s.aborts .write .word a = false ∧ s.inRam .word a = true then s.writeWord a (s.readReg r) else s

theorem State.onlyMemory_storeOne (s : State) (r : RegNum) (a : Word) : s.OnlyMemory (s.storeOne r a) := by
  unfold State.storeOne
  split
  · exact s.onlyMemory_writeWord a _
  · exact State.OnlyMemory.refl s

theorem State.storeMany_cons (s : State) (r : RegNum) (rs : List RegNum) (a : Word) :
    s.storeMany (r :: rs) a =
      (((s.storeOne r a).storeMany rs (a + 4#32)).1,
        s.aborts .write .word a || ((s.storeOne r a).storeMany rs (a + 4#32)).2) := by
  rw [State.storeMany, State.storeOne]
  cases s.aborts .write .word a with
  | true => simp
  | false => cases s.inRam .word a <;> simp

theorem State.readWord_storeOne (s : State) (r : RegNum) (a : Word) :
    (s.storeOne r a).readWord a =
      if s.aborts .write .word a = false ∧ s.inRam .word a = true then some (s.readReg r) else s.readWord a := by
  unfold State.storeOne
  split
  · exact s.readWord_writeWord a _
  · rfl

theorem State.readByte_storeOne_ne {a c : Word} (r : RegNum) (h : ∀ j, j < 4 → c ≠ a + BitVec.ofNat 32 j) :
    (s.storeOne r a).readByte c = s.readByte c := by
  unfold State.storeOne
  split
  · exact (s.sameMemoryBut_writeMem .word a (s.readReg r)).bytes c h
  · rfl

theorem State.stored_storeOne (s : State) (r : RegNum) (a : Word) (c : Nat) :
    c ∈ (s.storeOne r a).stored ↔ c ∈ s.stored ∨
      ∃ j, j < 4 ∧ (s.aborts .write .word a = false ∧ s.inRam .word a = true) ∧ c = (a + BitVec.ofNat 32 j).toNat := by
  unfold State.storeOne
  split
  case isTrue ram =>
    rw [show (s.writeWord a (s.readReg r)) = s.writeMem .word a (s.readReg r) from rfl,
      (s.sameMemoryBut_writeMem .word a (s.readReg r)).stored]
    simp [ram, Size.bytes]
  case isFalse notRam => simp [notRam]

theorem wordAt_zero (a : Word) : wordAt a 0 = a := BitVec.add_zero a

theorem wordAt_succ (a : Word) (k : Nat) : wordAt a (k + 1) = wordAt (a + 4#32) k := by
  rw [wordAt, wordAt, BitVec.add_assoc, Nat.mul_add, Nat.add_comm, BitVec.ofNat_add]

/-- Whether some access of a block store is aborted. -/
theorem State.storeMany_aborted (s : State) (rs : List RegNum) (a : Word) :
    (s.storeMany rs a).2 = true ↔ ∃ k, k < rs.length ∧ s.aborts .write .word (wordAt a k) = true := by
  induction rs generalizing s a with
  | nil => simp [State.storeMany]
  | cons r rs ih =>
    rw [State.storeMany_cons, Bool.or_eq_true, ih, List.length_cons, Nat.exists_lt_succ_left]
    simp only [wordAt_zero, wordAt_succ, (s.onlyMemory_storeOne r a).aborts]

/-- The words of a block store: each access that is in RAM and not aborted writes its register (R244). -/
theorem State.readWord_storeMany (s : State) {rs : List RegNum} (a : Word) (length : rs.length ≤ 9) {k : Nat}
    (hk : k < rs.length) :
    (s.storeMany rs a).1.readWord (wordAt a k) =
      if s.aborts .write .word (wordAt a k) = false ∧ s.inRam .word (wordAt a k) = true then some (s.readReg rs[k])
      else s.readWord (wordAt a k) := by
  induction rs generalizing s a k with
  | nil => cases hk
  | cons r rs ih =>
    rw [List.length_cons] at length
    have only := s.onlyMemory_storeOne r a
    rw [State.storeMany_cons]
    cases k with
    | zero =>
      rw [wordAt_zero, ← State.readWord_storeOne]
      refine State.readWord_of_bytes a ((s.storeOne r a).onlyMemory_storeMany rs _).bigend fun j hj => ?_
      refine State.readByte_storeMany_ne _ _ _ _ fun m hm => ?_
      bv_omega
    | succ k =>
      have hk : k < rs.length := Nat.lt_of_succ_lt_succ hk
      rw [wordAt_succ, ih (s.storeOne r a) (a + 4#32) (by omega) hk, only.aborts, only.inRam, only.readReg,
        List.getElem_cons_succ]
      congr 1
      refine State.readWord_of_bytes _ only.bigend fun j hj => State.readByte_storeOne_ne r fun m hm => ?_
      rw [wordAt]
      bv_omega

/-- The bytes of RAM a block store records as stored to. -/
theorem State.stored_storeMany (s : State) (rs : List RegNum) (a : Word) (c : Nat) :
    c ∈ (s.storeMany rs a).1.stored ↔ c ∈ s.stored ∨ ∃ k j, k < rs.length ∧ j < 4 ∧
      (s.aborts .write .word (wordAt a k) = false ∧ s.inRam .word (wordAt a k) = true) ∧
      c = (wordAt a k + BitVec.ofNat 32 j).toNat := by
  induction rs generalizing s a with
  | nil => simp [State.storeMany]
  | cons r rs ih =>
    have only := s.onlyMemory_storeOne r a
    rw [State.storeMany_cons, ih, State.stored_storeOne]
    simp only [List.length_cons, exists_and_left, Nat.exists_lt_succ_left, wordAt_zero, wordAt_succ, only.aborts, only.inRam]
    rw [or_assoc]

/-! ### Block stores (R244, R245, R248) -/

/-- The frames of work on memory alone. -/
theorem State.OnlyMemory.keeps (h : s.OnlyMemory t) : s.KeepsBut t [] where
  regs p _ := h.getPhys p
  saved := ⟨h.spsrFiq, h.spsrIrq, h.spsrSvc, h.spsrAbt, h.spsrUnd⟩
  control := State.sameControl_of_bits fun j _ _ => by rw [h.cpsr]
  inputs := ⟨h.lines, h.upcoming, h.masters, h.resetting, h.memoryMap, h.bigend, h.unallocTraps⟩
  draws := h.draws

theorem State.SameControl.trans {s t u : State} (h : s.SameControl t) (k : t.SameControl u) : s.SameControl u :=
  ⟨k.i.trans h.i, k.f.trans h.f, k.m.trans h.m, k.reserved.trans h.reserved⟩

/-- Work that names no register, and then work that does. -/
theorem State.KeepsBut.trans {s t u : State} {written : List PhysReg} (h : s.KeepsBut t []) (k : t.KeepsBut u written) :
    s.KeepsBut u written :=
  ⟨fun p hp => (k.regs p hp).trans (h.regs p List.not_mem_nil), h.saved.trans k.saved, h.control.trans k.control,
    h.inputs.trans k.inputs, k.draws.trans h.draws⟩

theorem State.named_congr {s t : State} (mode : t.mode = s.mode) (rs : List RegNum) : t.named rs = s.named rs := by
  rw [State.named, State.named, mode]

theorem State.SameFlags.trans {s t u : State} (h : s.SameFlags t) (k : t.SameFlags u) : s.SameFlags u :=
  ⟨k.n.trans h.n, k.z.trans h.z, k.c.trans h.c, k.v.trans h.v⟩

/-- Settles O48: after the stores (`State.readWord_storeMany`) the base register is written and the instruction passed. -/
theorem blockStores : Obligations.BlockStores := by
  unfold Obligations.BlockStores
  intro s i regs start base final form nonempty isAligned noAbort
  have list := form.list
  have only := s.onlyMemory_storeMany regs start
  have noneAborted : ¬ (s.storeMany regs start).2 = true := by
    rw [State.storeMany_aborted]
    rintro ⟨k, hk, aborted⟩
    exact Bool.false_ne_true ((noAbort k hk).symm.trans aborted)
  have result := (s.storeMany regs start).1.plainResult_writeReg_advanceThumb final list.base_ne_pc
  have bytes (a : Word) :=
    (s.storeMany regs start).1.writeReg_readByte base final a
  refine ⟨((s.storeMany regs start).1.writeReg base final).advanceThumb, ?_, fun k hk => ?_, fun a outside => ?_, fun c => ?_,
    result.value, (State.sameFlags_of_cpsr only.cpsr).trans result.flags, result.state.trans only.thumb,
    result.pc.trans (by rw [only.pc]), only.keeps.trans (State.named_congr only.mode [base] ▸ result.keeps)⟩
  · rw [form.exec_eq, State.blockStore_aligned nonempty (aligned_eq_true.mpr isAligned), if_neg noneAborted]
  · have word := s.readWord_storeMany start list.length hk
    simp only [noAbort k hk, true_and] at word
    rw [← word]
    exact State.readWord_of_bytes _ (State.writeReg_bigend ..) fun j _ => bytes _
  · exact (bytes a).trans (s.readByte_storeMany_ne regs start a outside)
  · show c ∈ ((s.storeMany regs start).1.writeReg base final).stored ↔ _
    rw [State.writeReg_stored, State.stored_storeMany]
    constructor
    · rintro (h | ⟨k, j, hk, hj, ⟨-, inRam⟩, rfl⟩)
      · exact .inl h
      · exact .inr ⟨k, j, hk, hj, inRam, rfl⟩
    · rintro (h | ⟨k, j, hk, hj, inRam, rfl⟩)
      · exact .inl h
      · exact .inr ⟨k, j, hk, hj, ⟨noAbort k hk, inRam⟩, rfl⟩

/-- A number other than 14 names no copy of R14 (R23). -/
theorem phys_ne_r14 {m : Option Mode} {r : RegNum} {p : PhysReg} (ne : r ≠ lrReg) (h : phys m r = some p) (b : Bank) :
    p ≠ .r14 b := by
  rintro rfl
  unfold phys at h
  split at h
  · cases h
  · split at h
    · split at h <;> cases h
    · split at h
      · cases h
      · split at h
        case isTrue h14 => exact ne (Fin.ext h14)
        case isFalse => cases h

/-- A data abort changes no register but a copy of R14. -/
theorem State.getPhys_dataAbort {p : PhysReg} (h : ∀ b, p ≠ .r14 b) : s.dataAbort.getPhys p = s.getPhys p := by
  rw [State.dataAbort, State.takeException, State.getPhys_enter, if_neg (h _)]

/-- What an aborted block store leaves (R244, R313). -/
theorem State.BlockStoreForm.aborted {k : Nat} (form : s.BlockStoreForm i regs start base final)
    (isAligned : aligned .word start = true) (hk : k < regs.length)
    (aborted : s.aborts .write .word (wordAt start k) = true) :
    exec i s = .next ((s.storeMany regs start).1.writeReg base final).dataAbort ∧
      s.Entered ((s.storeMany regs start).1.writeReg base final).dataAbort .dataAbort (s.pc + 8#32) (s.named [base]) := by
  have only := s.onlyMemory_storeMany regs start
  have nonempty : regs ≠ [] := List.ne_nil_of_length_pos (Nat.zero_lt_of_lt hk)
  constructor
  · rw [form.exec_eq, State.blockStore_aligned nonempty isAligned,
      if_pos ((s.storeMany_aborted regs start).mpr ⟨k, hk, aborted⟩)]
  · rw [State.dataAbort, State.writeReg_pc _ _ form.list.base_ne_pc, only.pc]
    have work := (s.computes_storeMany regs start).trans (State.computes_writeReg _ base final)
    exact State.entered_takeException ((State.writeReg_cpsr _ _ _).trans only.cpsr)
      (State.sameRegsBut_writeReg (regs := []) (fun p _ => only.getPhys p) only.mode base final) work.saved
      ((State.writeReg_draws _ _ _).trans only.draws) _ _

/-- A data abort taken, and before it a register written, change no byte. -/
theorem State.readByte_dataAbort_writeReg (s : State) (r : RegNum) (v a : Word) :
    (s.writeReg r v).dataAbort.readByte a = s.readByte a :=
  ((s.writeReg r v).sameMemory_takeException .dataAbort _).bytes a |>.trans (s.writeReg_readByte r v a)

theorem State.sameInputs_dataAbort (s : State) : s.SameInputs s.dataAbort := s.sameInputs_takeException _ _

theorem State.OnlyRegs.inputs (h : s.OnlyRegs t) : s.SameInputs t :=
  ⟨h.lines, h.upcoming, h.masters, h.resetting, h.memoryMap, h.bigend, h.unallocTraps⟩

/-- Settles O52: the stores not aborted are done (`State.readWord_storeMany`), and the abort is entered after the write-back. -/
theorem blockStoreAborted : Obligations.BlockStoreAborted := by
  unfold Obligations.BlockStoreAborted
  rintro s i regs start base final form isAligned ⟨k, hk, aborted⟩
  have list := form.list
  have only := s.onlyMemory_storeMany regs start
  obtain ⟨next, entered⟩ := form.aborted (aligned_eq_true.mpr isAligned) hk aborted
  have bytes := (s.storeMany regs start).1.readByte_dataAbort_writeReg base final
  have inputs := (only.keeps.inputs.trans ((State.onlyRegs_writeReg _ base final).inputs)).trans
    (State.sameInputs_dataAbort _)
  refine ⟨_, next, fun k hk => ?_, fun a outside => ?_, fun p hp => ?_, entered, inputs⟩
  · rw [← s.readWord_storeMany start list.length hk]
    exact State.readWord_of_bytes _ (inputs.bigend.trans only.bigend.symm) fun j _ => bytes _
  · exact (bytes a).trans (s.readByte_storeMany_ne regs start a outside)
  · rw [State.getPhys_dataAbort (phys_ne_r14 list.base_ne_lr hp), State.getPhys_writeReg, only.mode, if_pos hp]

end Sys2Proof.Machine
end

section
/-! PROOFS. The loads of a block load, said as a relation between the states before and after them (R244, R246, R249), and what
a block load leaves; a push and a pop (R247). -/

namespace Sys2Proof.Machine

/-! ### The loads that are answered -/

/-- The state after one load of a block load that is answered with `x`: a device answers with a free value (log 32). -/
def State.loadOne (s : State) (r : RegNum) (a x : Word) : State :=
  if s.onDevice .word a then (s.writeReg r x).drew else s.writeReg r x

/-- The registers of a list are loaded from some address on with these words, each access being answered: by a device with
a free value, by memory with the word there. -/
inductive State.Loads : State → List RegNum → Word → List Word → State → Prop where
  | nil (s : State) (a : Word) : State.Loads s [] a [] s
  | cons {s t : State} {r : RegNum} {rs : List RegNum} {a x : Word} {xs : List Word}
    (noAbort : s.aborts .read .word a = false)
    (answer : s.onDevice .word a = true ∧ x = s.deviceRead .word ∨ s.onDevice .word a = false ∧ s.readWord a = some x)
    (rest : State.Loads (s.loadOne r a x) rs (a + 4#32) xs t) : State.Loads s (r :: rs) a (x :: xs) t

/-- What a block load needs of its `k`-th access to be answered. -/
def State.Answered (s : State) (a : Word) : Prop :=
  s.aborts .read .word a = false ∧ (s.onDevice .word a = true ∨ (s.readWord a).isSome)

variable {s t : State} {rs more : List RegNum} {a : Word} {xs : List Word}

theorem State.onlyRegs_loadOne (s : State) (r : RegNum) (a x : Word) : s.OnlyRegs (s.loadOne r a x) := by
  unfold State.loadOne
  split
  · exact (s.onlyRegs_writeReg r x).trans (State.onlyRegs_drew _)
  · exact s.onlyRegs_writeReg r x

theorem State.readReg_loadOne_self {r : RegNum} (x : Word) (h : r ≠ pcReg) : (s.loadOne r a x).readReg r = x := by
  unfold State.loadOne
  split
  · exact s.readReg_writeReg_self x h
  · exact s.readReg_writeReg_self x h

theorem State.loadOne_pc {r : RegNum} (x : Word) (h : r ≠ pcReg) : (s.loadOne r a x).pc = s.pc := by
  unfold State.loadOne
  split
  · exact s.writeReg_pc x h
  · exact s.writeReg_pc x h

theorem State.loadOne_pcReg (thumb : s.thumb = true) (x : Word) : (s.loadOne pcReg a x).pc = x &&& ~~~1#32 := by
  have pc : (s.writeReg pcReg x).pc = x &&& ~~~1#32 := by
    rw [State.writeReg_pcReg, State.branch, if_pos thumb]
    rfl
  unfold State.loadOne
  split
  · exact pc
  · exact pc

/-- The loads that are answered come first, and the rest of the list is loaded after them. -/
theorem State.Loads.loadMany (h : State.Loads s rs a xs t) (more : List RegNum) :
    s.loadMany (rs ++ more) a = t.loadMany more (wordAt a rs.length) := by
  induction h with
  | nil s a => rw [List.nil_append, List.length_nil, wordAt_zero]
  | @cons s t r rs a x xs noAbort answer rest ih =>
    rw [List.length_cons, wordAt_succ, ← ih, List.cons_append, State.loadMany, noAbort, if_neg Bool.false_ne_true,
      State.loadOne]
    rcases answer with ⟨device, rfl⟩ | ⟨memory, word⟩
    · rw [if_pos device, if_pos device]
    · rw [memory, if_neg Bool.false_ne_true, if_neg Bool.false_ne_true, word]

theorem State.Loads.done (h : State.Loads s rs a xs t) : s.loadMany rs a = .done t := by
  simpa [State.loadMany] using h.loadMany []

theorem State.Loads.state_eq (h : State.Loads s rs a xs t) : (s.loadMany rs a).state = some t := by
  rw [h.done]
  rfl

theorem State.Loads.onlyRegs (h : State.Loads s rs a xs t) : s.OnlyRegs t := State.onlyRegs_loadMany h.state_eq

/-- Accesses that are all answered load the whole list. -/
theorem State.exists_loads (rs : List RegNum) (a : Word) (answered : ∀ k, k < rs.length → s.Answered (wordAt a k)) :
    ∃ xs t, State.Loads s rs a xs t := by
  induction rs generalizing s a with
  | nil => exact ⟨_, _, .nil s a⟩
  | cons r rs ih =>
    obtain ⟨noAbort, held⟩ := answered 0 (Nat.zero_lt_succ _)
    rw [wordAt_zero] at noAbort held
    obtain ⟨x, answer⟩ : ∃ x, s.onDevice .word a = true ∧ x = s.deviceRead .word ∨
        s.onDevice .word a = false ∧ s.readWord a = some x := by
      cases device : s.onDevice .word a with
      | true => exact ⟨_, .inl ⟨rfl, rfl⟩⟩
      | false =>
        obtain ⟨x, word⟩ := Option.isSome_iff_exists.mp (held.resolve_left (Bool.eq_false_iff.mp device))
        exact ⟨x, .inr ⟨rfl, word⟩⟩
    have only := s.onlyRegs_loadOne r a x
    obtain ⟨xs, t, rest⟩ := ih (s := s.loadOne r a x) (a + 4#32) fun k hk => by
      rw [State.Answered, only.aborts, only.onDevice, only.readWord, ← wordAt_succ]
      exact answered (k + 1) (Nat.succ_lt_succ hk)
    exact ⟨_, _, .cons noAbort answer rest⟩

/-- Each word loaded is the one in memory, but from a device. -/
theorem State.Loads.word (h : State.Loads s rs a xs t) {k : Nat} (hk : k < rs.length)
    (memory : s.onDevice .word (wordAt a k) = false) : s.readWord (wordAt a k) = some (xs.getD k 0#32) := by
  induction h generalizing k with
  | nil => cases hk
  | @cons s t r rs a x xs noAbort answer rest ih =>
    cases k with
    | zero =>
      rw [wordAt_zero] at memory ⊢
      obtain ⟨-, word⟩ := answer.resolve_left fun device => Bool.false_ne_true (memory.symm.trans device.1)
      exact word
    | succ k =>
      have only := s.onlyRegs_loadOne r a x
      rw [wordAt_succ, ← only.onDevice] at memory
      rw [wordAt_succ, ← only.readWord, ih (Nat.lt_of_succ_lt_succ hk) memory]
      rfl

/-- A register that the list does not name reads as before. -/
theorem State.Loads.readReg_ne (h : State.Loads s rs a xs t) {r : RegNum} (hr : r ∉ rs) (hpc : r ≠ pcReg) :
    t.readReg r = s.readReg r :=
  State.readReg_congr h.onlyRegs.mode hpc fun _ hp => State.getPhys_loadMany_ne h.state_eq fun _ hr' hp' =>
    hr (phys_inj hp hp' ▸ hr')

/-- Each register of the list holds the word loaded for it. -/
theorem State.Loads.readReg (h : State.Loads s rs a xs t) (nodup : rs.Nodup) {k : Nat} (hk : k < rs.length)
    (hpc : rs[k] ≠ pcReg) : t.readReg rs[k] = xs.getD k 0#32 := by
  induction h generalizing k with
  | nil => cases hk
  | @cons s t r rs a x xs noAbort answer rest ih =>
    obtain ⟨notIn, nodup⟩ := List.nodup_cons.mp nodup
    cases k with
    | zero => exact (rest.readReg_ne notIn hpc).trans (State.readReg_loadOne_self x hpc)
    | succ k => exact ih nodup (Nat.lt_of_succ_lt_succ hk) hpc

theorem State.Loads.pc_eq (h : State.Loads s rs a xs t) (hpc : pcReg ∉ rs) : t.pc = s.pc := by
  induction h with
  | nil => rfl
  | @cons s t r rs a x xs noAbort answer rest ih =>
    rw [ih (List.not_mem_of_not_mem_cons hpc), State.loadOne_pc x (List.ne_of_not_mem_cons hpc).symm]

/-- The PC loaded last takes its word with bit 0 dropped in THUMB state (R195). -/
theorem State.Loads.pc_last {init : List RegNum} (h : State.Loads s (init ++ [pcReg]) a xs t) (thumb : s.thumb = true) :
    t.pc = xs.getD init.length 0#32 &&& ~~~1#32 := by
  induction init generalizing s a xs with
  | nil =>
    cases h with
    | cons noAbort answer rest =>
      cases rest
      exact State.loadOne_pcReg thumb _
  | cons r init ih =>
    cases h with
    | @cons _ _ _ _ _ x xs noAbort answer rest => exact ih rest ((s.onlyRegs_loadOne r a x).thumb.trans thumb)

theorem State.Loads.draws_eq (h : State.Loads s rs a xs t)
    (memory : ∀ k, k < rs.length → s.onDevice .word (wordAt a k) = false) : t.draws = s.draws := by
  induction h with
  | nil => rfl
  | @cons s t r rs a x xs noAbort answer rest ih =>
    have head := memory 0 (Nat.zero_lt_succ _)
    rw [wordAt_zero] at head
    have only := s.onlyRegs_loadOne r a x
    rw [ih fun k hk => by rw [only.onDevice, ← wordAt_succ]; exact memory (k + 1) (Nat.succ_lt_succ hk), State.loadOne, head,
      if_neg Bool.false_ne_true, State.writeReg_draws]

/-! ### Block loads (R244, R246, R249) -/

variable {i : Instr} {regs : List RegNum} {start final : Word} {base : RegNum}

theorem State.blockLoad_aligned (nonempty : regs ≠ []) (isAligned : aligned .word start = true)
    (loads : State.Loads s regs start xs t) :
    s.blockLoad regs start base final =
      .next { t.writeReg base final with
        pc := if pcReg ∈ regs then (t.writeReg base final).pc else (t.writeReg base final).pc + 2#32 } := by
  rw [State.blockLoad, isEmpty_eq_false nonempty, if_neg Bool.false_ne_true, if_pos isAligned, loads.done]
  by_cases hpc : pcReg ∈ regs
  · rw [if_pos hpc]
    exact if_pos (List.contains_iff_mem.mpr hpc)
  · rw [if_neg hpc]
    exact if_neg fun contains => hpc (List.contains_iff_mem.mp contains)

theorem State.blockLoad_abortedAt {k : Nat} (isAligned : aligned .word start = true) (hk : k < regs.length)
    (loads : State.Loads s (regs.take k) start xs t) (aborted : s.aborts .read .word (wordAt start k) = true) :
    s.blockLoad regs start base final = .next (t.writeReg base final).dataAbort := by
  have nonempty : regs ≠ [] := List.ne_nil_of_length_pos (Nat.zero_lt_of_lt hk)
  have stop : s.loadMany regs start = .aborted t := by
    have split := loads.loadMany (regs.drop k)
    rw [List.take_append_drop, List.length_take, Nat.min_eq_left hk.le, List.drop_eq_getElem_cons hk, State.loadMany,
      loads.onlyRegs.aborts, if_pos aborted] at split
    exact split
  rw [State.blockLoad, isEmpty_eq_false nonempty, if_neg Bool.false_ne_true, if_pos isAligned, stop]

/-- The PC is in the list of POP with PC only, and it is the last there (R246). -/
theorem State.BlockLoadForm.pc_cases (form : s.BlockLoadForm i regs start base final) :
    pcReg ∉ regs ∨ ∃ init, regs = init ++ [pcReg] := by
  cases form with
  | pop | ldmia => exact .inl (not_mem_regList (by decide))
  | popPc rlist => exact .inr ⟨regList rlist, rfl⟩

/-- The frames of work on registers, the free values drawn apart. -/
theorem State.OnlyRegs.keeps {written : List PhysReg} (h : s.OnlyRegs t) (regs : s.SameRegsBut t written) :
    ({ s with draws := t.draws }).KeepsBut t written where
  regs := regs
  saved := ⟨h.spsrFiq, h.spsrIrq, h.spsrSvc, h.spsrAbt, h.spsrUnd⟩
  control := State.sameControl_of_bits fun j _ _ => by rw [h.cpsr]
  inputs := ⟨h.lines, h.upcoming, h.masters, h.resetting, h.memoryMap, h.bigend, h.unallocTraps⟩
  draws := rfl

theorem State.OnlyRegs.with_pc (h : s.OnlyRegs t) (a : Word) : s.OnlyRegs { t with pc := a } :=
  ⟨h.cpsr, h.spsrFiq, h.spsrIrq, h.spsrSvc, h.spsrAbt, h.spsrUnd, h.mem, h.stored, h.lines, h.upcoming, h.masters,
    h.resetting, h.memoryMap, h.bigend, h.unallocTraps⟩

theorem State.OnlyRegs.sameMemory (h : s.OnlyRegs t) : s.SameMemory t := ⟨h.readByte, h.stored⟩

/-- After the loads and the write-back the registers of the list hold their words and the base its final value, whatever the
PC is. -/
theorem State.Loads.readReg_writeBack (loads : State.Loads s regs start xs t) (list : BlockList regs base) (pc : Word) :
    (∀ k (h : k < regs.length), regs[k] ≠ pcReg →
      ({ t.writeReg base final with pc := pc }).readReg regs[k] = xs.getD k 0#32) ∧
    ({ t.writeReg base final with pc := pc }).readReg base = final := by
  have same {r : RegNum} (h : r ≠ pcReg) :
      ({ t.writeReg base final with pc := pc }).readReg r = (t.writeReg base final).readReg r :=
    State.readReg_congr rfl h fun _ _ => rfl
  refine ⟨fun k hk hpc => ?_, (same list.base_ne_pc).trans (t.readReg_writeReg_self final list.base_ne_pc)⟩
  have notBase : regs[k] ≠ base := fun eq => list.notBase (eq ▸ List.getElem_mem hk)
  rw [same hpc, t.readReg_writeReg_ne final notBase hpc, loads.readReg list.nodup hk hpc]

theorem State.Loads.sameRegsBut (loads : State.Loads s regs start xs t) :
    s.SameRegsBut (t.writeReg base final) (s.named (base :: regs)) :=
  State.sameRegsBut_writeReg (State.sameRegsBut_loadMany loads.state_eq) loads.onlyRegs.mode base final

/-- A word of which something is known but from a device is answered. -/
theorem State.answered_of_word {v : Word} (noAbort : s.aborts .read .word a = false)
    (word : s.onDevice .word a = false → s.readWord a = some v) : s.Answered a := by
  refine ⟨noAbort, ?_⟩
  cases device : s.onDevice .word a with
  | true => exact .inl rfl
  | false => exact .inr (word device ▸ rfl)

/-- Settles O49: the accesses are all answered (`State.exists_loads`), each register holds its word after them, and the write-back
touches none of them. -/
theorem blockLoads : Obligations.BlockLoads := by
  unfold Obligations.BlockLoads
  intro s i regs start base final v form thumb nonempty isAligned answers
  have list := form.list
  obtain ⟨xs, t, loads⟩ := State.exists_loads (s := s) regs start fun k hk =>
    State.answered_of_word (answers k hk).1 (answers k hk).2
  have next := form.exec_eq.trans (State.blockLoad_aligned nonempty (aligned_eq_true.mpr isAligned) loads)
  have only := loads.onlyRegs.trans (t.onlyRegs_writeReg base final)
  have pc := t.writeReg_pc final list.base_ne_pc
  refine ⟨_, fun k => xs.getD k 0#32, next, fun k hk memory => ?_, (loads.readReg_writeBack list _).1, ?_,
    (loads.readReg_writeBack list _).2, (only.with_pc _).sameMemory, State.sameFlags_of_cpsr only.cpsr, only.thumb.trans thumb,
    (only.with_pc _).keeps loads.sameRegsBut, fun memory => ?_⟩
  · exact Option.some.inj ((loads.word hk memory).symm.trans ((answers k hk).2 memory))
  · rcases form.pc_cases with hpc | ⟨init, rfl⟩
    · rw [if_neg (show (15 : RegNum) ∉ regs from hpc), ← loads.pc_eq hpc, ← pc]
      exact if_neg hpc
    · have last : pcReg ∈ init ++ [pcReg] := List.mem_append_right _ (List.mem_singleton_self _)
      rw [if_pos (show (15 : RegNum) ∈ init ++ [pcReg] from last), List.length_append]
      exact ((if_pos last).trans pc).trans (loads.pc_last thumb)
  · exact (t.writeReg_draws base final).trans (loads.draws_eq memory)

/-- What an aborted block load leaves (R244, R313). -/
theorem State.BlockLoadForm.aborted {k : Nat} (form : s.BlockLoadForm i regs start base final)
    (isAligned : aligned .word start = true) (hk : k < regs.length) (loads : State.Loads s (regs.take k) start xs t)
    (aborted : s.aborts .read .word (wordAt start k) = true) :
    exec i s = .next (t.writeReg base final).dataAbort ∧
      ({ s with draws := (t.writeReg base final).dataAbort.draws }).Entered (t.writeReg base final).dataAbort .dataAbort
        (s.pc + 8#32) (s.named (base :: regs.take k)) := by
  refine ⟨form.exec_eq.trans (State.blockLoad_abortedAt isAligned hk loads aborted), ?_⟩
  have notPc : pcReg ∉ regs.take k := by
    rcases form.pc_cases with hpc | ⟨init, rfl⟩
    · exact fun member => hpc (List.mem_of_mem_take member)
    · rw [List.length_append, List.length_singleton, Nat.lt_succ_iff] at hk
      rw [List.take_append_of_le_length hk]
      intro member
      exact List.disjoint_of_nodup_append form.list.nodup (List.mem_of_mem_take member) (List.mem_singleton_self _)
  have only := loads.onlyRegs.trans (t.onlyRegs_writeReg base final)
  have entered := State.entered_redrawn only.cpsr loads.sameRegsBut
    ⟨only.spsrFiq, only.spsrIrq, only.spsrSvc, only.spsrAbt, only.spsrUnd⟩ .dataAbort ((t.writeReg base final).pc + 8#32)
  rw [t.writeReg_pc final form.list.base_ne_pc, loads.pc_eq notPc] at entered
  rwa [State.dataAbort, t.writeReg_pc final form.list.base_ne_pc, loads.pc_eq notPc]

theorem State.BlockLoadForm.lr_not_mem (form : s.BlockLoadForm i regs start base final) : lrReg ∉ regs := by
  cases form with
  | pop | ldmia => exact not_mem_regList (by decide)
  | popPc rlist =>
    intro member
    rcases List.mem_append.mp member with member | member
    · exact not_mem_regList (by decide) member
    · exact absurd (List.mem_singleton.mp member) (by decide)

/-- After an aborted block load a register of the list that was loaded holds its word. -/
theorem State.Loads.getPhys_aborted {k j : Nat} {p : PhysReg} (loads : State.Loads s (regs.take k) start xs t)
    (form : s.BlockLoadForm i regs start base final) (hj : j < regs.length) (before : j < k)
    (hp : phys s.mode regs[j] = some p) : (t.writeReg base final).dataAbort.getPhys p = xs.getD j 0#32 := by
  have list := form.list
  have notLr : regs[j] ≠ lrReg := fun eq => form.lr_not_mem (eq ▸ List.getElem_mem hj)
  have notBase : regs[j] ≠ base := fun eq => list.notBase (eq ▸ List.getElem_mem hj)
  have notPc : regs[j] ≠ pcReg := fun eq => by rw [eq, phys_pcReg] at hp; cases hp
  have taken : j < (regs.take k).length := by rw [List.length_take]; omega
  have mode := loads.onlyRegs.mode
  rw [State.getPhys_dataAbort (phys_ne_r14 notLr hp), State.getPhys_writeReg, mode,
    if_neg fun hb => notBase (phys_inj hp hb), ← State.readReg_of_phys t (mode.symm ▸ hp)]
  have word := loads.readReg (list.nodup.sublist (List.take_sublist k regs)) taken
  rw [List.getElem_take] at word
  exact word notPc

theorem State.SameMemory.trans {s t u : State} (h : s.SameMemory t) (k : t.SameMemory u) : s.SameMemory u :=
  ⟨fun a => (k.bytes a).trans (h.bytes a), k.stored.trans h.stored⟩

/-- Settles O53: the registers before the aborted access are loaded (`State.Loads.getPhys_aborted`), and the abort is entered
after the write-back. -/
theorem blockLoadAborted : Obligations.BlockLoadAborted := by
  unfold Obligations.BlockLoadAborted
  intro s i regs start base final v k form isAligned hk answers aborted
  have list := form.list
  have taken : (regs.take k).length = k := List.length_take_of_le hk.le
  obtain ⟨xs, t, loads⟩ := State.exists_loads (s := s) (regs.take k) start fun j hj =>
    have hj := taken ▸ hj
    State.answered_of_word (answers j hj).1 (answers j hj).2
  obtain ⟨next, entered⟩ := form.aborted (aligned_eq_true.mpr isAligned) hk loads aborted
  have only := loads.onlyRegs.trans (t.onlyRegs_writeReg base final)
  refine ⟨_, fun j => xs.getD j 0#32, next, fun j hj memory => ?_, fun j h p hj hp => loads.getPhys_aborted form h hj hp,
    fun p hp => ?_, entered, ?_, only.inputs.trans (State.sameInputs_dataAbort _), fun memory => ?_⟩
  · exact Option.some.inj ((loads.word (taken.symm ▸ hj) memory).symm.trans ((answers j hj).2 memory))
  · rw [State.getPhys_dataAbort (phys_ne_r14 list.base_ne_lr hp), State.getPhys_writeReg, loads.onlyRegs.mode, if_pos hp]
  · exact only.sameMemory.trans (State.sameMemory_takeException ..)
  · rw [State.dataAbort, State.takeException, State.enter_draws, State.writeReg_draws]
    exact loads.draws_eq fun j hj => memory j (taken ▸ hj)

/-! ### A push and a pop (R247) -/

/-- The answer of the memory system to an access is not the registers' or memory's matter. -/
theorem State.aborts_congr {k : AccessKind} {z : Size} (inputs : s.SameInputs t) (mode : t.mode = s.mode) :
    t.aborts k z a = s.aborts k z a := by
  simp only [State.aborts, State.outside, State.kindAt, State.userMode, inputs.lines, inputs.memoryMap, mode]

theorem State.onDevice_congr {z : Size} (inputs : s.SameInputs t) : t.onDevice z a = s.onDevice z a := by
  simp only [State.onDevice, State.kindAt, inputs.memoryMap]

/-- There is no device where RAM stands. -/
theorem State.onDevice_of_inRam {z : Size} (h : s.inRam z a = true) : s.onDevice z a = false := by
  rw [State.inRam, List.all_eq_true] at h
  rw [State.onDevice, List.any_eq_false]
  intro b hb
  rw [beq_iff_eq.mp (h b hb)]
  decide

theorem State.mode_of_control (h : s.SameControl t) : t.mode = s.mode := congrArg Mode.ofBits h.m

/-- A word-aligned address less some words is word aligned. -/
theorem aligned_sub_words (h : a.toNat % 4 = 0) (n : Nat) : (a - BitVec.ofNat 32 (4 * n)).toNat % 4 = 0 := by
  rw [BitVec.toNat_sub, BitVec.toNat_ofNat]
  omega

/-- Settles O50: the words pushed are those popped, the stack pointer having gone down and up by the same. -/
theorem pushThenPop : Obligations.PushThenPop := by
  unfold Obligations.PushThenPop
  intro s stored loaded sameLength nonempty isAligned stack
  obtain ⟨t, pushed, words, -, -, sp, -, -, pcPushed, keeps⟩ :=
    blockStores s _ _ _ _ _ (.push stored) nonempty (aligned_sub_words isAligned _) fun k hk => (stack k _ hk rfl).1
  have spAligned : aligned .word (t.readReg spReg) = true := by
    rw [sp]
    exact aligned_eq_true.mpr (aligned_sub_words isAligned _)
  have word {k : Nat} (hk : k < (regList stored).length) :
      t.readWord (wordAt (t.readReg spReg) k) = some (s.readReg (regList stored)[k]) := by
    rw [sp, words k hk]
    obtain ⟨-, -, ram⟩ := stack k _ hk rfl
    exact if_pos ram
  obtain ⟨xs, u, loads⟩ := State.exists_loads (s := t) (regList loaded) (t.readReg spReg) fun k hk => by
    have hk := sameLength ▸ hk
    refine ⟨?_, .inr (word hk ▸ rfl)⟩
    rw [sp, State.aborts_congr keeps.inputs (State.mode_of_control keeps.control)]
    obtain ⟨-, noAbort, -⟩ := stack k _ hk rfl
    exact noAbort
  have loadedNonempty : regList loaded ≠ [] := by
    rw [← List.length_pos_iff, ← sameLength]
    exact List.length_pos_iff.mpr nonempty
  have form := State.BlockLoadForm.pop (s := t) loaded
  have notPc : pcReg ∉ regList loaded := not_mem_regList (by decide)
  obtain ⟨values, spPopped⟩ := loads.readReg_writeBack form.list (final := t.readReg spReg + _) _
  refine ⟨t, _, pushed, form.exec_eq.trans (State.blockLoad_aligned loadedNonempty spAligned loads), spPopped.trans ?_,
    fun k hk g => ?_, ?_⟩
  · rw [sp, sameLength]
    exact BitVec.sub_add_cancel _ _
  · rw [values k hk fun eq => notPc (eq ▸ List.getElem_mem hk)]
    have memory : t.onDevice .word (wordAt (t.readReg spReg) k) = false := by
      rw [sp, State.onDevice_congr keeps.inputs]
      obtain ⟨-, -, ram⟩ := stack k _ g rfl
      exact State.onDevice_of_inRam ram
    exact Option.some.inj ((loads.word hk memory).symm.trans (word g))
  · show (if pcReg ∈ regList loaded then _ else _) = _
    rw [if_neg notPc, State.writeReg_pc _ _ form.list.base_ne_pc, loads.pc_eq notPc, pcPushed, BitVec.add_assoc]
    rfl

end Sys2Proof.Machine
end

section
/-! PROOFS. The order of exceptions (R319), and the return from every exception but reset (R306, R320). -/

namespace Sys2Proof.Machine

variable {s t : State} {i : Instr} {k : Exc} {link : Word} {also : List PhysReg}

/-- A single load that is aborted enters the data abort. -/
theorem State.LoadForm.aborted {rd : BitVec 3} {z : Size} {a : Word} {f : Word → Word} (form : s.LoadForm i rd z a f)
    (isAligned : aligned z a = true) (aborted : s.aborts .read z a = true) : exec i s = .next s.dataAbort :=
  form.exec_eq.trans (State.load_aborted _ isAligned aborted)

/-- A single store that is aborted enters the data abort. -/
theorem State.StoreForm.aborted {rd : BitVec 3} {z : Size} {a : Word} (form : s.StoreForm i rd z a)
    (isAligned : aligned z a = true) (aborted : s.aborts .write z a = true) : exec i s = .next s.dataAbort :=
  form.exec_eq.trans (State.store_aborted _ isAligned aborted)

/-- The accesses before the first one aborted load their registers. -/
theorem State.exists_loads_take {regs : List RegNum} {start : Word} {n : Nat} (hn : n < regs.length)
    (before : ∀ j, j < n → s.Answered (wordAt start j)) : ∃ xs u, State.Loads s (regs.take n) start xs u :=
  State.exists_loads (regs.take n) start fun j hj => before j (List.length_take_of_le hn.le ▸ hj)

/-- An instruction of which an access is aborted enters the data abort, a block load possibly having drawn free values. -/
theorem State.DataAborts.entered (h : s.DataAborts i) : ∃ t draws also, exec i s = .next t ∧
    ({ s with draws := draws }).Entered t .dataAbort (s.pc + 8#32) also := by
  cases h with
  | load form isAligned aborted => exact ⟨_, s.draws, _, form.aborted isAligned aborted, s.entered_dataAbort⟩
  | store form isAligned aborted => exact ⟨_, s.draws, _, form.aborted isAligned aborted, s.entered_dataAbort⟩
  | blockStore form isAligned inList aborted =>
    obtain ⟨next, entered⟩ := form.aborted isAligned inList aborted
    exact ⟨_, s.draws, _, next, entered⟩
  | blockLoad form isAligned inList before aborted =>
    obtain ⟨xs, u, loads⟩ := State.exists_loads_take inList before
    obtain ⟨next, entered⟩ := form.aborted isAligned inList loads aborted
    exact ⟨_, _, _, next, entered⟩

/-- Settles O22: at the boundary after a data abort F is as it was, so an FIQ is taken there. -/
theorem exceptionPriorities : Obligations.ExceptionPriorities := by
  unfold Obligations.ExceptionPriorities
  intro s legal
  refine ⟨fun reset => ?_, fun i aborts enabled => ?_, fun noReset fiq enabled => ?_,
    fun noReset noFiq irq enabled => ?_, fun noReset noFiq noIrq aborted => ?_⟩
  · obtain ⟨t, next, pc, -⟩ := resetTakesEffect s reset
    exact ⟨t, next, pc⟩
  · obtain ⟨t, draws, also, next, entered⟩ := aborts.entered
    refine ⟨t, next, entered.pc, fun u hu => ?_⟩
    have mode : u.mode = some .abt := by rw [hu]; exact entered.mode_eq
    have masked : u.fiqMasked = false := by
      rw [hu]
      refine entered.f.trans ?_
      rw [show ({ s with draws := draws } : State).fiqMasked = false from enabled]
      rfl
    obtain ⟨fiqTaken, -⟩ := boundaryExceptions u (by rw [hu]) (by rw [mode]; nofun)
    obtain ⟨v, step, fiqEntered, -⟩ := fiqTaken (by rw [hu]) masked
    exact ⟨v, step, fiqEntered.pc⟩
  · obtain ⟨fiqTaken, -⟩ := boundaryExceptions s noReset legal
    obtain ⟨t, step, entered, -⟩ := fiqTaken fiq enabled
    exact ⟨t, step, entered.pc⟩
  · obtain ⟨-, irqTaken, -⟩ := boundaryExceptions s noReset legal
    obtain ⟨t, step, entered, -⟩ := irqTaken noFiq irq enabled
    exact ⟨t, step, entered.pc⟩
  · obtain ⟨-, -, prefetchTaken⟩ := boundaryExceptions s noReset legal
    obtain ⟨t, step, entered, -⟩ := prefetchTaken noFiq noIrq aborted
    exact ⟨t, step, entered.pc⟩

/-! ### Returns -/

/-- An aligned address is not changed by the alignment of a return (R320). -/
theorem State.PcAligned.return_eq (h : s.PcAligned) :
    (if s.thumb then s.pc &&& ~~~1#32 else s.pc &&& ~~~3#32) = s.pc := by
  cases thumb : s.thumb with
  | true => exact and_not_one_of_even (h.thumb thumb)
  | false => exact and_not_three_of_aligned (h.arm thumb)

/-- From the entry of an exception the return goes to the link less what the return instruction takes from it, where that
is aligned for the state returned to. -/
theorem State.Entered.resumes {less target : Word} (h : s.Entered t k link also) (form : ReturnForm i 0xE#4 less)
    (eq : link - less = target) (aligned : ({ s with pc := target }).PcAligned) :
    ∃ u, exec i t = .next u ∧ s.Resumed u k target also ∧ t.SameMemory u := by
  obtain ⟨u, next, resumed, memory⟩ := h.returns form
  have same : (if s.thumb then target &&& ~~~1#32 else target &&& ~~~3#32) = target := aligned.return_eq
  rw [eq, same] at resumed
  exact ⟨u, next, resumed, memory⟩

/-- The returns that resume the instruction at the PC itself. -/
theorem State.Entered.resumes_self {less : Word} (h : s.Entered t k (s.pc + less) also) (form : ReturnForm i 0xE#4 less)
    (aligned : s.PcAligned) : ∃ u, exec i t = .next u ∧ s.Resumed u k s.pc also ∧ t.SameMemory u :=
  h.resumes form (BitVec.add_sub_cancel _ _) aligned

theorem State.MastersMemory.trans {s t u : State} (h : s.MastersMemory t) (k : t.SameMemory u) : s.MastersMemory u :=
  ⟨fun a => (k.bytes a).trans (h.bytes a), k.stored.trans h.stored⟩

/-- The count of the free values drawn does not tell what was resumed. -/
theorem State.Resumed.of_redrawn {u : State} {n : Nat} {target : Word}
    (h : ({ s with draws := n }).Resumed u k target also) : s.Resumed u k target also :=
  ⟨h.pc, h.cpsr, h.regs, h.spsrs⟩

/-- Settles O25: each exception is entered with its link (R306), and its return goes back there (`State.Entered.resumes`). -/
theorem returnResumes : Obligations.ReturnResumes := by
  unfold Obligations.ReturnResumes
  intro s aligned
  have afterThumb (thumb : s.thumb = true) : ({ s with pc := s.pc + 2#32 }).PcAligned :=
    (State.Computes.refl s).advanceThumb.aligned thumb aligned
  have afterArm (arm : s.thumb = false) : ({ s with pc := s.pc + 4#32 }).PcAligned :=
    (State.Computes.refl s).advanceArm.aligned arm aligned
  have subZero (a : Word) : a - 0#32 = a := BitVec.sub_zero a
  refine ⟨fun value thumb => ?_, fun cond value arm passed => ?_, fun i form thumb traps => ?_, ?_, ?_, ?_, ?_, ?_, ?_, ?_⟩
  · obtain ⟨swi, -⟩ := softwareInterrupt s
    obtain ⟨t, next, entered, memory, -⟩ := swi value
    obtain ⟨u, back, resumed, memory'⟩ := entered.resumes (.movs _) (subZero _) (afterThumb thumb)
    exact ⟨t, u, next, back, resumed, memory.trans memory'⟩
  · obtain ⟨-, armSwi⟩ := softwareInterrupt s
    obtain ⟨t, next, entered, memory, -⟩ := armSwi cond value passed
    obtain ⟨u, back, resumed, memory'⟩ := entered.resumes (.movs _) (subZero _) (afterArm arm)
    exact ⟨t, u, next, back, resumed, memory.trans memory'⟩
  · obtain ⟨undefined, -⟩ := unallocatedHalfwords s i form
    obtain ⟨t, next, entered, memory, -⟩ := undefined traps
    obtain ⟨u, back, resumed, memory'⟩ := entered.resumes (.movs _) (subZero _) (afterThumb thumb)
    exact ⟨t, u, next, back, resumed, memory.trans memory'⟩
  · intro noReset legal fiq enabled
    obtain ⟨fiqTaken, -⟩ := boundaryExceptions s noReset legal
    obtain ⟨t, step, entered, memory, -⟩ := fiqTaken fiq enabled
    obtain ⟨u, back, resumed, memory'⟩ := entered.resumes_self (.subs4 _) aligned
    exact ⟨t, u, step, back, resumed, memory.trans memory'⟩
  · intro noReset legal noFiq irq enabled
    obtain ⟨-, irqTaken, -⟩ := boundaryExceptions s noReset legal
    obtain ⟨t, step, entered, memory, -⟩ := irqTaken noFiq irq enabled
    obtain ⟨u, back, resumed, memory'⟩ := entered.resumes_self (.subs4 _) aligned
    exact ⟨t, u, step, back, resumed, memory.trans memory'⟩
  · intro noReset legal noFiq noIrq aborted
    obtain ⟨-, -, prefetchTaken⟩ := boundaryExceptions s noReset legal
    obtain ⟨t, step, entered, memory, -⟩ := prefetchTaken noFiq noIrq aborted
    obtain ⟨u, back, resumed, memory'⟩ := entered.resumes_self (.subs4 _) aligned
    exact ⟨t, u, step, back, resumed, memory.trans memory'⟩
  · intro i rd z a f form isAligned aborted
    obtain ⟨u, back, resumed, memory⟩ := s.entered_dataAbort.resumes_self (.subs8 _) aligned
    exact ⟨_, u, form.aborted isAligned aborted, back, resumed, (s.sameMemory_takeException _ _).trans memory⟩
  · intro i rd z a form isAligned aborted
    obtain ⟨u, back, resumed, memory⟩ := s.entered_dataAbort.resumes_self (.subs8 _) aligned
    exact ⟨_, u, form.aborted isAligned aborted, back, resumed, (s.sameMemory_takeException _ _).trans memory⟩
  · intro i regs start base final k form isAligned hk aborted
    obtain ⟨next, entered⟩ := form.aborted isAligned hk aborted
    obtain ⟨u, back, resumed, memory⟩ := entered.resumes_self (.subs8 _) aligned
    refine ⟨_, u, next, back, resumed, fun a outside => (memory.bytes a).trans ?_⟩
    exact (State.readByte_dataAbort_writeReg _ base final a).trans (s.readByte_storeMany_ne regs start a outside)
  · intro i regs start base final k form isAligned hk before aborted
    obtain ⟨xs, v, loads⟩ := State.exists_loads_take hk before
    obtain ⟨next, entered⟩ := form.aborted isAligned hk loads aborted
    obtain ⟨u, back, resumed, memory⟩ := entered.resumes_self (.subs8 _) (aligned.congr rfl rfl)
    have only := loads.onlyRegs.trans (v.onlyRegs_writeReg base final)
    exact ⟨_, u, next, back, resumed.of_redrawn,
      (only.sameMemory.trans (State.sameMemory_takeException ..)).trans memory⟩

end Sys2Proof.Machine
end
